-- ==== Sys2Proof/Word.lean ====
section
/-! DEFINITION. The words of WPE: a byte, a 16-bit value and a byte string (spec/00_scope.md R12). -/

namespace Sys2Proof

/-- A byte: 8 bits, an unsigned integer 0 to 255 (R12). -/
abbrev Byte := BitVec 8

/-- A 16-bit value: the checksum and its accumulator (R33, R110). -/
abbrev Word16 := BitVec 16

/-- A byte string (buffer, chunk): a finite list of bytes, offset 0 first (R12). -/
abbrev Bytes := List Byte

end Sys2Proof
end

