-- ==== Sys2Proof/Syntax.lean ====
section
/-! DEFINITION. The operations of WPE as syntax: one constructor of `Instr` per row of spec/opcode_table.json,
the value types their operands have (spec/30_encoding.md R95, spec/10_state.md R50), and a presentation on the
operation port as the host makes it (spec/00_scope.md R14). -/

namespace Sys2Proof

/-- The closed set of command classes (spec/00_scope.md R10). -/
inductive Command where
  | currentValue
  | recordingSettings
  | passcode
  | settingsWrite
  | start
  | stop
  deriving DecidableEq, Repr

/-- The host's timestamp, opaque to WPE, which copies it and never compares it (R95, spec/60_exceptions.md R272,
spec/93_implementation_defined.md U22). Log entry 11: DESIGN CHOICE. -/
structure Time where
  stamp : Nat
  deriving DecidableEq, Repr

/-- The device identity, opaque to WPE, which stores it and hands it to PASSCODE_LOOKUP (spec/10_state.md R42,
spec/92_eei_decisions.md D30). Log entry 11: DESIGN CHOICE. -/
structure DeviceId where
  token : Nat
  deriving DecidableEq, Repr

/-- A character string with its length (R95). -/
abbrev Text := List Char

/-- A frame value with its five fields (spec/10_state.md R50). `length` and `checksum` are held as given: a
frame presented to CS.RECV by the host may carry values that do not fit its payload (spec/70_reset_and_hazards.md
R309). -/
structure Frame where
  command : Byte
  sequence : Byte
  length : Nat
  payload : Bytes
  checksum : Word16
  deriving DecidableEq, Repr

/-- The two polling decisions that CS.POLLSTATE reports: the 1-bit operand type pstate (R95). -/
inductive PState where
  | polling
  | streaming
  deriving DecidableEq, Repr

/-- The 18 operations of the operation port, by name (R95). -/
inductive OpName where
  | wpeReset
  | wpeNotify
  | crcInit
  | crcUpdate
  | crcRead
  | crcBlock
  | fcEncode
  | fcDecode
  | faAppend
  | faReset
  | csSend
  | csRecv
  | csConnect
  | csChannel
  | csPollstate
  | csDisconnect
  | csPassenc
  | csUnlock
  deriving DecidableEq, Repr

/-- The operand types of the port (R95). -/
inductive OperandType where
  | byte
  | bit
  | bytes
  | cls
  | pstate
  | time
  | ident
  | text
  | frame
  deriving DecidableEq, Repr

/-- One operand as it stands on the port, before decoding: bits for the types the spec gives bits, a value for
the others (R95). -/
inductive Operand where
  | byte (b : Byte)
  | bit (b : BitVec 1)
  | bytes (d : Bytes)
  | cls (c : BitVec 3)
  | pstate (p : BitVec 1)
  | time (t : Time)
  | ident (d : DeviceId)
  | text (s : Text)
  | frame (f : Frame)
  deriving DecidableEq, Repr

/-- What can be presented to the machine. `op` is the operation port's own form: the 8-bit operation-select code
and the operands (R14, R95). The other four present one item of the table's other formats (wire frame, status
byte, passcode payload, command byte) to the function of the spec that reads it; they are no port operations
(log entry 4: DESIGN CHOICE). -/
inductive Presentation where
  | op (code : Byte) (operands : List Operand)
  | wireFrame (bytes : Bytes)
  | statusByte (payload : Bytes)
  | passcodePayload (bytes : Bytes)
  | cmdByte (b : Byte)
  deriving DecidableEq, Repr

/-- The instructions: the 18 port operations, the illegal operation code, and the four rows of the opcode table
that are formats. One constructor per row of spec/opcode_table.json. -/
inductive Instr where
  /-- WPE.RESET (spec/70_reset_and_hazards.md R290). -/
  | wpeReset
  /-- WPE.NOTIFY chunk, now (spec/42_frame_assembler.md R160). -/
  | wpeNotify (chunk : Bytes) (now : Time)
  /-- CRC.INIT (spec/40_crc_unit.md R113). -/
  | crcInit
  /-- CRC.UPDATE b (R114). -/
  | crcUpdate (b : Byte)
  /-- CRC.READ (R115). -/
  | crcRead
  /-- CRC.BLOCK data (R116). -/
  | crcBlock (data : Bytes)
  /-- FC.ENCODE cmd, seq, payload, brk (spec/41_frame_codec.md R130). -/
  | fcEncode (cmd seq : Byte) (payload : Bytes) (brk : Bool)
  /-- FC.DECODE data (R135). -/
  | fcDecode (data : Bytes)
  /-- FA.APPEND chunk (spec/42_frame_assembler.md R150). -/
  | faAppend (chunk : Bytes)
  /-- FA.RESET (R158). -/
  | faReset
  /-- CS.SEND c, payload (spec/43_session.md R170). The class operand is its 3-bit code, 6 and 7 included,
  which R96 makes an error of the operation. -/
  | csSend (c : BitVec 3) (payload : Bytes)
  /-- CS.RECV f, now (R175). -/
  | csRecv (f : Frame) (now : Time)
  /-- CS.CONNECT id, brk (R201). -/
  | csConnect (id : DeviceId) (brk : Bool)
  /-- CS.CHANNEL w (R202). -/
  | csChannel (w : Bool)
  /-- CS.POLLSTATE p (R204). -/
  | csPollstate (p : PState)
  /-- CS.DISCONNECT (R208). -/
  | csDisconnect
  /-- CS.PASSENC s (R195). -/
  | csPassenc (s : Text)
  /-- CS.UNLOCK s (R196). -/
  | csUnlock (s : Text)
  /-- An operation code outside the table (spec/30_encoding.md R96). -/
  | illegalOp (op : Byte)
  /-- The wire frame format (R80): the frame's fields, LEN being the payload's length. -/
  | frame (cmd seq : Byte) (payload : Bytes) (crc : Word16)
  /-- The status byte format (R90): the payload whose first byte is the status. -/
  | status (payload : Bytes)
  /-- The passcode payload format (R93): the eight decimal digits, one per nibble. -/
  | passcode (a b c d e f g h : BitVec 4)
  /-- The command byte format (R91). -/
  | commandClass (b : Byte)
  deriving DecidableEq, Repr

end Sys2Proof
end

