-- ==== Sys2Proof/Config.lean ====
section
/-! DEFINITION. The constants and the parameters of WPE: what the spec fixes for every instance (spec/00_scope.md
R6, R7, R11), and the parameters it leaves to the model as configuration (R8, R9), which no operation and no reset
changes (spec/70_reset_and_hazards.md R293). A parameter the spec gives no value is an opaque constant with no
body: nothing can be proved of it beyond the constraints R9 puts on it. -/

namespace Sys2Proof

/-- The three error flags of a reading (spec/10_state.md R52). -/
inductive SensorError where
  | sensorDisconnected
  | overRange
  | underRange
  deriving DecidableEq, Repr

/-- The number a reading carries. The document says "floating point" and names no format, and WPE does no
arithmetic on it (R52, spec/93_implementation_defined.md U23), so it is held as the bit pattern of a format that
is not named, never read as a number. Log entry 11: DESIGN CHOICE. -/
structure Celsius where
  pattern : Nat
  deriving DecidableEq, Repr

/-- The record `decode_current` returns (spec/00_scope.md R9). -/
structure CurrentRecord where
  channel : Option Int
  value : Celsius
  isRecording : Bool
  securityOn : Bool
  errorFlag : Option SensorError
  deriving DecidableEq, Repr

/-- The record `decode_settings` returns (R9). -/
structure SettingsRecord where
  intervalSeconds : Nat
  mode : Int
  securityOn : Bool
  deriving DecidableEq, Repr

/-- The readings of the passcode digits that the document's prose and its vector give (spec/90_conflicts.md C2). Log entry
24. -/
inductive PassPacking where
  /-- 16 × first digit + second digit, the vector's. -/
  | packedBcd
  /-- 10 × first digit + second digit, the rejected reading of the prose. -/
  | base10
  deriving DecidableEq, Repr

/-- The configuration of one WPE instance: the parameters of R8 and R9 that its operations use. -/
structure Params where
  /-- CRC_INIT (R8). -/
  crcInit : Word16
  /-- CMD_CODE[c] (R9). -/
  cmdCode : Command → Byte
  /-- RESP_CODE[c] (R9). -/
  respCode : Command → Byte
  /-- STATUS_BUSY (R9). -/
  statusBusy : Byte
  /-- Membership in REFUSE_CODES (R9). -/
  refuses : Byte → Bool
  /-- REASON_SECURITY_LOCKED (R9). -/
  reasonLocked : Byte
  /-- decode_current (R9). -/
  decodeCurrent : Bytes → Option CurrentRecord
  /-- decode_settings (R9). -/
  decodeSettings : Bytes → Option SettingsRecord
  /-- SETTINGS_READ_PAYLOAD (R9). -/
  settingsReadPayload : Bytes
  /-- PASS_PACKING (R11). -/
  packing : PassPacking

/-- The constraints R9 puts on the parameters. -/
def Params.Valid (P : Params) : Prop :=
  (∀ c d, P.respCode c = P.respCode d → c = d) ∧
  P.statusBusy ≠ 0 ∧ P.refuses P.statusBusy = false ∧ P.refuses 0 = false ∧
  P.refuses P.reasonLocked = true ∧ P.settingsReadPayload.length ≤ 65535

namespace Config

/-- SOH, the start-of-frame marker (R6). -/
def soh : Byte := 0x01

/-- BREAK, the optional wake-up byte before a frame (R6). -/
def breakByte : Byte := 0x00

/-- HDR_LEN, the header's bytes (R6). -/
def hdrLen : Nat := 5

/-- CRC_LEN, the checksum's bytes (R6). -/
def crcLen : Nat := 2

/-- MIN_FRAME, the bytes of the shortest frame (R6). -/
def minFrame : Nat := 7

/-- CRC_POLY, the generator polynomial (R6). -/
def crcPoly : Word16 := 0x1021

/-- STATUS_ACK (R6). -/
def statusAck : Byte := 0x00

/-- MAX_PAYLOAD, what the two length bytes can declare (R7). -/
def maxPayload : Nat := 65535

/-- MAX_FRAME, the bytes of the longest frame (R7). -/
def maxFrame : Nat := 65542

/-- BUF_CAP (R11). -/
def bufCap : Nat := 65542

/-- SEQ_RESET (R11). -/
def seqReset : Byte := 0x00

/-- EXPECT_DEPTH (R11). -/
def expectDepth : Nat := 8

/-- DEFER_DEPTH (R11). -/
def deferDepth : Nat := 8

/-- CMD_CODE[c]: no value is in the source and R9 puts no constraint on it. Log entry 5. -/
opaque cmdCode : Command → Byte

/-- The free choice of the six response codes: a permutation of the 256 bytes, of which six values are used, so
that they are pairwise distinct as R9 demands and nothing else is known of them. Log entry 6. -/
opaque respPermutation : Equiv.Perm Byte

/-- The free choice of STATUS_BUSY and REASON_SECURITY_LOCKED: a permutation of the 255 non-zero bytes (numbered
from 0), of which two values are used, so that they are non-zero and distinct. Log entry 7. -/
opaque statusPermutation : Equiv.Perm (Fin 255)

/-- The free choice of the further members of REFUSE_CODES. Log entry 7. -/
opaque refusesFurther : Byte → Bool

/-- decode_current: the layout of the current-value payload is not in the source (R9). Log entry 8. -/
opaque decodeCurrent : Bytes → Option CurrentRecord

/-- decode_settings: the layout of the recording-settings payload is not in the source (R9). Log entry 8. -/
opaque decodeSettings : Bytes → Option SettingsRecord

/-! The adjacent components of spec/44_adjacent_components.md, which are outside the block (R4). -/

/-- Whether `fastTicks` at 2 or more while polling is already stopped opens the streaming window again
(spec/91_not_in_source.md N26). Log entry 22. -/
opaque pollingReopensWindow : Bool

/-- Whether a start request that comes while the streaming window is open and a write channel is there is taken up
(N26). Without a channel it is always kept (spec/44 R236). Log entry 22. -/
opaque pollingStartsInWindow : Bool

/-- The seconds a host timestamp stands for: the polling controller subtracts timestamps, WPE never does (spec/44
R232). Log entry 22. -/
opaque secondsOf : Time → ℚ

/-- "The current-value command code" of the packet parser's binary dialect, which has no value in the source (spec/44
R246, spec/91_not_in_source.md N10). Log entry 23. -/
opaque parserCommandCode : Byte

/-- The channel the binary dialect reports: none, or a single fixed one (spec/44 R247). Log entry 23. -/
opaque parserChannel : Option Int

/-- The further texts that set an error flag: the source gives no literal substring but the one of its example
(spec/44 R248, N27). Log entry 23. -/
opaque parserFurtherFlag : Text → Option SensorError

/-- The bit pattern of a reading's number, for a sign and a count of tenths of a degree: the format is not stated
(spec/10_state.md R52). Log entry 23. -/
opaque celsiusPattern (negative : Bool) (magnitude : Nat) : Nat

/-- The number that picks the class's value of `respPermutation`. -/
def respSlot : Command → Byte
  | .currentValue => 0
  | .recordingSettings => 1
  | .passcode => 2
  | .settingsWrite => 3
  | .start => 4
  | .stop => 5

/-- RESP_CODE[c] (R9). -/
def respCode (c : Command) : Byte := respPermutation (respSlot c)

/-- The non-zero byte with the given number. -/
def nonZeroByte (n : Fin 255) : Byte := BitVec.ofNat 8 (n.val + 1)

/-- STATUS_BUSY (R9). -/
def statusBusy : Byte := nonZeroByte (statusPermutation 0)

/-- REASON_SECURITY_LOCKED (R9). -/
def reasonLocked : Byte := nonZeroByte (statusPermutation 1)

/-- Membership in REFUSE_CODES: the security-locked reason, and any further byte that is neither 0x00 nor
STATUS_BUSY (R9). -/
def refuses (b : Byte) : Bool :=
  b == reasonLocked || (b != 0 && b != statusBusy && refusesFurther b)

/-- This hardware's configuration: CRC_INIT = 0x0000 (R8, spec/90_conflicts.md C1), SETTINGS_READ_PAYLOAD = []
(spec/92_eei_decisions.md D14), PASS_PACKING = packed BCD (D3), the rest free. Log entries 9, 10, 24. -/
def wpe : Params where
  crcInit := 0x0000
  cmdCode := cmdCode
  respCode := respCode
  statusBusy := statusBusy
  refuses := refuses
  reasonLocked := reasonLocked
  decodeCurrent := decodeCurrent
  decodeSettings := decodeSettings
  settingsReadPayload := []
  packing := .packedBcd

end Config

end Sys2Proof
end

