-- ==== Sys2Proof/Decode.lean ====
section
/-! DEFINITION. Decoding and encoding: the operation port's codes and operand lists (spec/30_encoding.md R95,
R96), the wire frame's layout (R80 to R85) with its byte orders (spec/20_memory.md R62), the passcode payload's
nibbles (R93). Decoding is total and rejects by name; the encoder stands after it. -/

namespace Sys2Proof

/-! ### Byte order -/

/-- `le16(lo, hi) = lo + 256 * hi` (spec/00_scope.md R12). -/
def le16 (lo hi : Byte) : Nat := lo.toNat + 256 * hi.toNat

/-- `be16(hi, lo) = 256 * hi + lo` as a 16-bit value (R12). -/
def be16 (hi lo : Byte) : Word16 := hi ++ lo

/-- `k[15:8]`, transmitted first (R62). -/
def hiByte (k : Word16) : Byte := k.extractLsb' 8 8

/-- `k[7:0]` (R62). -/
def loByte (k : Word16) : Byte := k.extractLsb' 0 8

/-- LEN_LO = LEN mod 256 (R82). -/
def lenLo (n : Nat) : Byte := BitVec.ofNat 8 (n % 256)

/-- LEN_HI = LEN div 256 (R82). -/
def lenHi (n : Nat) : Byte := BitVec.ofNat 8 (n / 256)

/-! ### The wire frame -/

/-- The fields of a wire frame (R80); LEN is the payload's length. -/
structure WireFrame where
  cmd : Byte
  seq : Byte
  payload : Bytes
  crc : Word16
  deriving DecidableEq, Repr

/-- The five header bytes (R80, spec/41_frame_codec.md R131). -/
def frameHeader (cmd seq : Byte) (n : Nat) : Bytes :=
  [Config.soh, cmd, seq, lenLo n, lenHi n]

/-- The bytes of a wire frame, in the layout of R80. -/
def WireFrame.bytes (w : WireFrame) : Bytes :=
  frameHeader w.cmd w.seq w.payload.length ++ w.payload ++ [hiByte w.crc, loByte w.crc]

/-- The layout checks of `decode`, steps 1 to 5 of R136: at least 7 bytes, the start marker, and exactly
`5 + L + 2` bytes for the declared length L. The checksum is not looked at. -/
def readWireFrame (b : Bytes) : Option WireFrame :=
  if b.length < Config.minFrame then none
  else
    match b with
    | s :: cmd :: seq :: lo :: hi :: rest =>
      if s ≠ Config.soh then none
      else if b.length ≠ Config.hdrLen + le16 lo hi + Config.crcLen then none
      else
        match rest.drop (le16 lo hi) with
        | [ch, cl] => some ⟨cmd, seq, rest.take (le16 lo hi), be16 ch cl⟩
        | _ => none
    | _ => none

/-! ### The operation port -/

/-- The operation-select codes (R95). -/
def OpName.code : OpName → Byte
  | .wpeReset => 0x00
  | .wpeNotify => 0x01
  | .crcInit => 0x10
  | .crcUpdate => 0x11
  | .crcRead => 0x12
  | .crcBlock => 0x13
  | .fcEncode => 0x20
  | .fcDecode => 0x21
  | .faAppend => 0x30
  | .faReset => 0x31
  | .csSend => 0x40
  | .csRecv => 0x41
  | .csConnect => 0x42
  | .csChannel => 0x43
  | .csPollstate => 0x44
  | .csDisconnect => 0x45
  | .csPassenc => 0x46
  | .csUnlock => 0x47

/-- The operations in the table's order (R95). -/
def OpName.all : List OpName :=
  [.wpeReset, .wpeNotify, .crcInit, .crcUpdate, .crcRead, .crcBlock, .fcEncode, .fcDecode, .faAppend, .faReset,
   .csSend, .csRecv, .csConnect, .csChannel, .csPollstate, .csDisconnect, .csPassenc, .csUnlock]

/-- The operation a code selects, if it is in the table (R95, R96). -/
def OpName.ofCode (b : Byte) : Option OpName := OpName.all.find? (fun o => o.code == b)

/-- The operand types of each operation, in order (R95). -/
def OpName.signature : OpName → List OperandType
  | .wpeNotify => [.bytes, .time]
  | .crcUpdate => [.byte]
  | .crcBlock => [.bytes]
  | .fcEncode => [.byte, .byte, .bytes, .bit]
  | .fcDecode => [.bytes]
  | .faAppend => [.bytes]
  | .csSend => [.cls, .bytes]
  | .csRecv => [.frame, .time]
  | .csConnect => [.ident, .bit]
  | .csChannel => [.bit]
  | .csPollstate => [.pstate]
  | .csPassenc => [.text]
  | .csUnlock => [.text]
  | .wpeReset => []
  | .crcInit => []
  | .crcRead => []
  | .faReset => []
  | .csDisconnect => []

/-- Why a presentation is no instruction. The spec's port has typed operands, so none of these can arise on it
(log entry 3). -/
inductive DecodeError where
  /-- The operand list does not have the operation's operand types (R95). -/
  | operandTypes (op : OpName)
  /-- The frame operand's length is no integer from 0 to 65535, so it is no `Frame` (spec/10_state.md R50). -/
  | frameLength
  /-- The bytes do not have the layout of a wire frame (R80, R92). -/
  | notAWireFrame
  /-- The bytes are not four bytes of two decimal digits each (R93). -/
  | notAPasscode
  deriving DecidableEq, Repr

/-- A 1-bit operand as a truth value. -/
def bitOf (b : BitVec 1) : Bool := b == 1#1

/-- The bit that stands for a truth value. -/
def toBit (b : Bool) : BitVec 1 := BitVec.ofBool b

/-- pstate: 0 is Polling, 1 is Streaming (R95). -/
def pstateOf (b : BitVec 1) : PState := if b = 0#1 then .polling else .streaming

/-- The bit of a pstate (R95). -/
def PState.bit : PState → BitVec 1
  | .polling => 0#1
  | .streaming => 1#1

/-- The instruction that an operation makes with its operands, if they have its operand types. -/
def decodeOperands : OpName → List Operand → Except DecodeError Instr
  | .wpeReset, [] => .ok .wpeReset
  | .wpeNotify, [.bytes d, .time t] => .ok (.wpeNotify d t)
  | .crcInit, [] => .ok .crcInit
  | .crcUpdate, [.byte b] => .ok (.crcUpdate b)
  | .crcRead, [] => .ok .crcRead
  | .crcBlock, [.bytes d] => .ok (.crcBlock d)
  | .fcEncode, [.byte c, .byte q, .bytes p, .bit k] => .ok (.fcEncode c q p (bitOf k))
  | .fcDecode, [.bytes d] => .ok (.fcDecode d)
  | .faAppend, [.bytes d] => .ok (.faAppend d)
  | .faReset, [] => .ok .faReset
  | .csSend, [.cls c, .bytes p] => .ok (.csSend c p)
  | .csRecv, [.frame f, .time t] =>
    if f.length ≤ Config.maxPayload then .ok (.csRecv f t) else .error .frameLength
  | .csConnect, [.ident d, .bit k] => .ok (.csConnect d (bitOf k))
  | .csChannel, [.bit w] => .ok (.csChannel (bitOf w))
  | .csPollstate, [.pstate p] => .ok (.csPollstate (pstateOf p))
  | .csDisconnect, [] => .ok .csDisconnect
  | .csPassenc, [.text s] => .ok (.csPassenc s)
  | .csUnlock, [.text s] => .ok (.csUnlock s)
  | o, _ => .error (.operandTypes o)

/-- The two decimal digits of a passcode byte, first digit in the high nibble (R93). -/
def nibblesOf (b : Byte) : BitVec 4 × BitVec 4 := (b.extractLsb' 4 4, b.extractLsb' 0 4)

/-- The byte of two nibbles. -/
def ofNibbles (a b : BitVec 4) : Byte := a ++ b

/-- Four bytes read as eight decimal digits, one per nibble (R93, row PASSCODE). -/
def readPasscode : Bytes → Option Instr
  | [w, x, y, z] =>
    let i := [nibblesOf w, nibblesOf x, nibblesOf y, nibblesOf z]
    if i.all (fun p => p.1.toNat ≤ 9 && p.2.toNat ≤ 9) then
      some (.passcode (nibblesOf w).1 (nibblesOf w).2 (nibblesOf x).1 (nibblesOf x).2
        (nibblesOf y).1 (nibblesOf y).2 (nibblesOf z).1 (nibblesOf z).2)
    else none
  | _ => none

/-- Decoding, total on every presentation. An operation code outside the table is the instruction `illegalOp`,
whatever operands stand beside it: "`IllegalOp` before anything else" (R96, spec/60_exceptions.md R267). -/
def decode : Presentation → Except DecodeError Instr
  | .op code operands =>
    match OpName.ofCode code with
    | none => .ok (.illegalOp code)
    | some o => decodeOperands o operands
  | .wireFrame b =>
    match readWireFrame b with
    | none => .error .notAWireFrame
    | some w => .ok (.frame w.cmd w.seq w.payload w.crc)
  | .statusByte p => .ok (.status p)
  | .passcodePayload b =>
    match readPasscode b with
    | none => .error .notAPasscode
    | some i => .ok i
  | .cmdByte b => .ok (.commandClass b)

/-! ### The encoder -/

/-- The presentation of an instruction, written from the same tables (R80, R91, R93, R95). -/
def encode : Instr → Presentation
  | .wpeReset => .op 0x00 []
  | .wpeNotify d t => .op 0x01 [.bytes d, .time t]
  | .crcInit => .op 0x10 []
  | .crcUpdate b => .op 0x11 [.byte b]
  | .crcRead => .op 0x12 []
  | .crcBlock d => .op 0x13 [.bytes d]
  | .fcEncode c q p k => .op 0x20 [.byte c, .byte q, .bytes p, .bit (toBit k)]
  | .fcDecode d => .op 0x21 [.bytes d]
  | .faAppend d => .op 0x30 [.bytes d]
  | .faReset => .op 0x31 []
  | .csSend c p => .op 0x40 [.cls c, .bytes p]
  | .csRecv f t => .op 0x41 [.frame f, .time t]
  | .csConnect d k => .op 0x42 [.ident d, .bit (toBit k)]
  | .csChannel w => .op 0x43 [.bit (toBit w)]
  | .csPollstate p => .op 0x44 [.pstate p.bit]
  | .csDisconnect => .op 0x45 []
  | .csPassenc s => .op 0x46 [.text s]
  | .csUnlock s => .op 0x47 [.text s]
  | .illegalOp op => .op op []
  | .frame cmd seq payload crc => .wireFrame (WireFrame.bytes ⟨cmd, seq, payload, crc⟩)
  | .status p => .statusByte p
  | .passcode a b c d e f g h => .passcodePayload [ofNibbles a b, ofNibbles c d, ofNibbles e f, ofNibbles g h]
  | .commandClass b => .cmdByte b

/-! ### Words of the opcode table -/

/-- The operand of a type with every bit 0 and every length 0: what the port shows beside a code when the bits
above it are zero. -/
def OperandType.zero : OperandType → Operand
  | .byte => .byte 0
  | .bit => .bit 0
  | .bytes => .bytes []
  | .cls => .cls 0
  | .pstate => .pstate 0
  | .time => .time ⟨0⟩
  | .ident => .ident ⟨0⟩
  | .text => .text []
  | .frame => .frame ⟨0, 0, 0, [], 0⟩

/-- The first `n` bytes of a number, bit 0 being the least significant bit of the first byte. -/
def wordBytes : Nat → Nat → Bytes
  | 0, _ => []
  | n + 1, w => BitVec.ofNat 8 w :: wordBytes n (w / 256)

/-- A wire frame whose bytes after the given ones are 0, up to the length its header declares (R82, R83). -/
def padFrame (b : Bytes) : Bytes :=
  match b with
  | _ :: _ :: _ :: lo :: hi :: _ =>
    b ++ List.replicate (Config.hdrLen + le16 lo hi + Config.crcLen - b.length) 0
  | _ => b

/-- How a word of the opcode table is presented, by the width the table gives its row: 8 bits are an operation
code on the port, with operands of zeros; 32 bits are the passcode payload's four bytes; 40 bits or more are a
wire frame from its header on, with zeros after it (log entry 21). -/
def tablePresentation (nbits w : Nat) : Presentation :=
  if nbits ≥ 40 then .wireFrame (padFrame (wordBytes (nbits / 8) w))
  else if nbits = 32 then .passcodePayload (wordBytes 4 w)
  else
    let code : Byte := BitVec.ofNat 8 w
    match OpName.ofCode code with
    | none => .op code []
    | some o => .op code (o.signature.map OperandType.zero)

/-- The instruction the decoder reads from a word of the opcode table, or none where it refuses. -/
def decodeTableWord (nbits w : Nat) : Option Instr :=
  match decode (tablePresentation nbits w) with
  | .ok i => some i
  | .error _ => none

end Sys2Proof
end

