-- ==== Sys2Proof/WellFormed.lean ====
section
/-! DEFINITION. Which instructions are well formed: the ranges the spec gives operands that their Lean types do
not already give (spec/10_state.md R50, spec/30_encoding.md R80, R93, R96). -/

namespace Sys2Proof

/-- A frame value's length is an integer from 0 to 65535 (R50). Its agreement with the payload is NOT asked:
CS.RECV is presented frames the host built (spec/70_reset_and_hazards.md R309). -/
def Frame.lengthOk (f : Frame) : Bool := f.length ≤ Config.maxPayload

/-- A nibble holds a decimal digit (R93). -/
def digitOk (d : BitVec 4) : Bool := d.toNat ≤ 9

/-- The operation code is in the table of R95. -/
def inTable (op : Byte) : Bool := (OpName.ofCode op).isSome

/-- Well-formedness of an instruction. -/
def Instr.wf : Instr → Bool
  | .csRecv f _ => f.lengthOk
  | .illegalOp op => !inTable op
  | .frame _ _ payload _ => payload.length ≤ Config.maxPayload
  | .passcode a b c d e f g h => [a, b, c, d, e, f, g, h].all digitOk
  | .wpeReset => true
  | .wpeNotify _ _ => true
  | .crcInit => true
  | .crcUpdate _ => true
  | .crcRead => true
  | .crcBlock _ => true
  | .fcEncode _ _ _ _ => true
  | .fcDecode _ => true
  | .faAppend _ => true
  | .faReset => true
  | .csSend _ _ => true
  | .csConnect _ _ => true
  | .csChannel _ => true
  | .csPollstate _ => true
  | .csDisconnect => true
  | .csPassenc _ => true
  | .csUnlock _ => true
  | .status _ => true
  | .commandClass _ => true

end Sys2Proof
end

