-- ==== Sys2Proof/Machine/State.lean ====
section
/-! DEFINITION. The state of WPE as plain data: the twelve state elements of spec/10_state.md R32, what the
operation port shows the host (spec/00_scope.md R14), and what the host shows WPE (R14). -/

namespace Sys2Proof.Machine

/-- The session state register `fsm` (spec/10_state.md R40). Code 7 is never held, so no constructor has it. -/
inductive Fsm where
  | idle
  | awaitingCharacteristics
  | ready
  | polling
  | streaming
  | securityLocked
  | disconnected
  deriving DecidableEq, Repr

/-- The status decoded from the first payload byte of a response (R51). -/
inductive Status where
  | ack
  | refuse (reason : Byte)
  | busy
  | unknown (raw : Byte)
  | missing
  deriving DecidableEq, Repr

/-- One in-flight expectation (R43). -/
structure Expectation where
  cls : Command
  resp : Byte
  seq : Byte
  deriving DecidableEq, Repr

/-- The `DeviceSnapshot` record, every field optional (R47). -/
structure DeviceSnapshot where
  intervalSeconds : Option Nat
  mode : Option Int
  isRecording : Option Bool
  securityOn : Option Bool
  lastError : Option Status
  deriving DecidableEq, Repr

/-- The snapshot with no field known: its value after reset and after disconnect (R47). -/
def DeviceSnapshot.empty : DeviceSnapshot := ⟨none, none, none, none, none⟩

/-- A temperature reading (R52). -/
structure TemperatureReading where
  capturedAt : Time
  channel : Option Int
  valueCelsius : Celsius
  errorFlag : Option SensorError
  deriving DecidableEq, Repr

/-- The correlation tag of a received frame (spec/43_session.md R176). -/
inductive Tag where
  | unsolicited
  | solicited (cls : Command) (sentSeq : Byte) (seqMatch : Bool)
  deriving DecidableEq, Repr

/-- The kinds of error and what each carries (spec/60_exceptions.md R263). -/
inductive ErrorKind where
  | validationPasscodeFormat
  | refused (cls : Command) (reason : Byte)
  | passcodeRejected (reason : Byte)
  | payloadTooLong (n : Nat)
  | deferOverflow (cls : Command)
  | illegalState (op : OpName) (fsm : Fsm)
  | illegalOp (op : Byte)
  | illegalOperand (v : BitVec 3)
  deriving DecidableEq, Repr

/-- The events (spec/60_exceptions.md R261). -/
inductive Event where
  | tx (bytes : Bytes)
  | logTx (bytes : Bytes)
  | logRx (frame : Frame) (tag : Tag)
  | logCrcFail (cand : Bytes)
  | logUnknownCmd (frame : Frame)
  | logDecodeFail (frame : Frame)
  | logUnhandledStatus (cls : Command) (status : Status)
  | arrival (now : Time)
  | reading (r : TemperatureReading)
  /-- The fields just written, with their new values; a field not written is none (log entry 13). -/
  | snapshot (fields : DeviceSnapshot)
  | securityNeeded
  | unlocked
  | pollStart
  | error (kind : ErrorKind)
  deriving DecidableEq, Repr

/-- What an operation answers besides its events (spec/30_encoding.md R95, column "result"). -/
inductive Result where
  /-- No result. -/
  | none
  /-- A 16-bit value: CRC.READ, CRC.BLOCK. -/
  | value (v : Word16)
  /-- Bytes: FC.ENCODE, CS.PASSENC. -/
  | bytes (b : Bytes)
  /-- A frame, or `nil`: FC.DECODE. -/
  | decoded (f : Option Frame)
  /-- The frames found: FA.APPEND, WPE.NOTIFY. -/
  | frames (fs : List Frame)
  /-- A status value: the table's row STATUS. -/
  | status (st : Status)
  /-- A command class, or UnknownCommand: the table's row COMMAND-CLASS. -/
  | cls (c : Option Command)
  deriving DecidableEq, Repr

/-- The host's passcode table at one moment: device identity and passcode text (spec/00_scope.md R9). -/
abbrev PasscodeTable := List (DeviceId × Text)

/-- The machine. The first twelve fields are the state elements of R32; the last four are the model's own view of
the operation port and of the host (log entries 1, 12, 13). -/
structure State where
  /-- The CRC accumulator (R33). -/
  crc : Word16
  /-- The assembler's byte FIFO, head first: byte `i` of the list is the byte at offset `i` (R35,
  spec/20_memory.md R60). -/
  buf : Bytes
  /-- The sequence counter (R38). -/
  seq : Byte
  /-- The session state register (R40). -/
  fsm : Fsm
  /-- Whether a write channel is there (R41). -/
  writeAvail : Bool
  /-- Whether frames are sent with the break byte (R42). -/
  brkEn : Bool
  /-- The connected device's identity (R42). -/
  deviceId : Option DeviceId
  /-- Whether the link is marked unlocked (R45). -/
  unlocked : Bool
  /-- Whether the automatic passcode send is spent (R46). -/
  autoSpent : Bool
  /-- The in-flight expectations, oldest first (R43). -/
  expect : List Expectation
  /-- The deferred frames, oldest first (R44). -/
  defer : List Bytes
  /-- The device snapshot (R47). -/
  snap : DeviceSnapshot
  /-- The host's side of the port: what it presents, the next presentation first. -/
  port : List Presentation
  /-- The host's answers to PASSCODE_LOOKUP, call by call: each call uses up the first table, the last one
  stays in force. -/
  lookup : List PasscodeTable
  /-- The result of the last operation. -/
  result : Result
  /-- The event list of the last operation, in order. -/
  events : List Event
  deriving DecidableEq, Repr

/-- The reasons a step could stop the machine. THERE IS NONE: "There is no fault state, no sticky error bit and no
way for WPE to stop accepting operations" (spec/60_exceptions.md R260), so the type has no constructor and that
no step faults holds by its type. Safe: a fault added by a later reading could only remove next states. -/
inductive Fault where
  deriving DecidableEq, Repr

/-- The reasons the model gives no meaning to what is presented. -/
inductive Refusal where
  /-- An instruction of the table that has no meaning yet. No arm of `exec` raises it. Safe. -/
  | notModelled (mnemonic : String)
  /-- `step` raises it where the decoder rejects a presentation: operands that are not of the operation's types,
  or bytes that are not of the format they are presented as. The spec's port has typed operands, so WPE is never
  shown one (log entry 3). Safe. -/
  | malformedPresentation (why : DecodeError)
  deriving DecidableEq, Repr

/-- The machine right after reset (spec/70_reset_and_hazards.md R290, spec/10_state.md R32, column "reset"). The
host has presented nothing and knows no passcode, and no operation has answered yet (log entries 1, 12, 13). -/
def State.reset : State where
  crc := Config.wpe.crcInit
  buf := []
  seq := Config.seqReset
  fsm := .idle
  writeAvail := false
  brkEn := false
  deviceId := none
  unlocked := false
  autoSpent := false
  expect := []
  defer := []
  snap := DeviceSnapshot.empty
  port := []
  lookup := []
  result := .none
  events := []

end Sys2Proof.Machine
end

