-- ==== Sys2Proof/Machine/Checksum.lean ====
section
/-! DEFINITION. The CRC16-CCITT function (spec/40_crc_unit.md R110, R111). -/

namespace Sys2Proof.Machine

/-- One of the eight shift steps: the test is made on the value before the shift (R111). -/
def crcShift (c : Word16) : Word16 :=
  if c.msb then (c <<< 1) ^^^ Config.crcPoly else c <<< 1

/-- `n` shift steps. -/
def crcShifts : Nat → Word16 → Word16
  | 0, c => c
  | n + 1, c => crcShifts n (crcShift c)

/-- A byte at the high half of a 16-bit value: `b * 256` (R111). -/
def atHigh (b : Byte) : Word16 := b ++ (0 : Byte)

/-- `crc_step(c, b)`: XOR the byte into the high half, then eight shift steps (R111). -/
def crcStep (c : Word16) (b : Byte) : Word16 := crcShifts 8 (c ^^^ atHigh b)

/-- Continuing a checksum over further bytes, first byte first (R110, R112). -/
def crcOver (c : Word16) (data : Bytes) : Word16 := data.foldl crcStep c

/-- `crc16(data)` with the given CRC_INIT: no reflection, no final XOR (R110). -/
def crc16 (init : Word16) (data : Bytes) : Word16 := crcOver init data

end Sys2Proof.Machine
end

