-- ==== Sys2Proof/Machine/Codec.lean ====
section
/-! DEFINITION. The frame codec's functions `encode` and `decode`, which hold no state (spec/41_frame_codec.md). -/

namespace Sys2Proof.Machine

/-- `encode(cmd, seq, payload, brk)` of R131. Its callers see to `len(payload) ≤ 65535` (R132). -/
def encodeFrame (init : Word16) (cmd seq : Byte) (payload : Bytes) (brk : Bool) : Bytes :=
  let k := crc16 init (frameHeader cmd seq payload.length ++ payload)
  let frame := WireFrame.bytes ⟨cmd, seq, payload, k⟩
  if brk then Config.breakByte :: frame else frame

/-- `decode(b)` of R136: the layout checks of steps 1 to 5, then the checksum over everything but the last two
bytes, compared exactly. -/
def decodeFrame (init : Word16) (b : Bytes) : Option Frame :=
  match readWireFrame b with
  | none => none
  | some w =>
    if crc16 init (b.take (Config.hdrLen + w.payload.length)) = w.crc then
      some ⟨w.cmd, w.seq, w.payload.length, w.payload, w.crc⟩
    else none

/-- The invariants of a frame value (spec/10_state.md R50): `length` counts the payload and `checksum` is the
checksum of header and payload. -/
def frameValid (init : Word16) (f : Frame) : Bool :=
  f.length = f.payload.length ∧ f.length ≤ Config.maxPayload ∧
    f.checksum = crc16 init (frameHeader f.command f.sequence f.length ++ f.payload)

end Sys2Proof.Machine
end

