-- ==== Sys2Proof/Machine/Assembler.lean ====
section
/-! DEFINITION. The frame assembler's buffer and its boundary detector as functions of the buffer
(spec/42_frame_assembler.md R150 to R153, spec/20_memory.md R60 to R68). -/

namespace Sys2Proof.Machine

/-- `MemRead(addr, n)`: the `n` bytes at offset `addr`, defined only inside the buffer (spec/00_scope.md R13). -/
def memRead (buf : Bytes) (addr n : Nat) : Option Bytes :=
  if addr + n ≤ buf.length then some ((buf.drop addr).take n) else none

/-- `BufAppend(b)` (R13). -/
def bufAppend (buf b : Bytes) : Bytes := buf ++ b

/-- `BufDrop(n)`: the `n` oldest bytes leave (R13). -/
def bufDrop (buf : Bytes) (n : Nat) : Bytes := buf.drop n

/-- The canonical form of the buffer between operations (spec/10_state.md R36): (a) fewer than 7 bytes, or (b)
a start marker at the head and fewer bytes than the header there declares. -/
def Memory.wf (buf : Bytes) : Bool :=
  match buf with
  | s :: _ :: _ :: lo :: hi :: _ =>
    buf.length < Config.minFrame ||
      (s == Config.soh && decide (buf.length < Config.hdrLen + le16 lo hi + Config.crcLen))
  | _ => true

/-- What one pass of the extraction loop finds. -/
inductive Pass where
  /-- Steps 2 and 4: stop and wait for more data. -/
  | wait
  /-- Step 3: the first byte is no start marker; one byte is dropped. -/
  | skip (rest : Bytes)
  /-- Step 5: a frame; the whole candidate leaves. -/
  | accept (f : Frame) (rest : Bytes)
  /-- Step 5: a checksum mismatch; one byte is dropped, the candidate is logged. -/
  | reject (cand rest : Bytes)
  deriving DecidableEq, Repr

/-- One pass of the loop of R152, steps 2 to 5. -/
def extractPass (init : Word16) (buf : Bytes) : Pass :=
  if buf.length < Config.minFrame then .wait
  else
    match memRead buf 0 1, memRead buf 3 2 with
    | some [s], some [lo, hi] =>
      if s ≠ Config.soh then .skip (bufDrop buf 1)
      else
        match memRead buf 0 (Config.hdrLen + le16 lo hi + Config.crcLen) with
        | none => .wait
        | some cand =>
          match decodeFrame init cand with
          | some f => .accept f (bufDrop buf (Config.hdrLen + le16 lo hi + Config.crcLen))
          | none => .reject cand (bufDrop buf 1)
    | _, _ => .wait

/-- What a run of the loop yields: the frames and the failed candidates, in order, and the buffer it leaves. -/
structure Extraction where
  frames : List Frame
  fails : List Bytes
  buf : Bytes
  deriving DecidableEq, Repr

/-- The loop of R152, with a bound on its passes. -/
def extractLoop (init : Word16) : Nat → Bytes → Extraction
  | 0, buf => ⟨[], [], buf⟩
  | n + 1, buf =>
    match extractPass init buf with
    | .wait => ⟨[], [], buf⟩
    | .skip rest => extractLoop init n rest
    | .accept f rest =>
      let e := extractLoop init n rest
      ⟨f :: e.frames, e.fails, e.buf⟩
    | .reject cand rest =>
      let e := extractLoop init n rest
      ⟨e.frames, cand :: e.fails, e.buf⟩

/-- `extract()` (R152): every pass that goes on removes a byte, so `len(BUF) + 1` passes always suffice (R153). -/
def extract (init : Word16) (buf : Bytes) : Extraction := extractLoop init (buf.length + 1) buf

/-- `FA.APPEND` on the buffer: append, then extract (R150). -/
def appendChunk (init : Word16) (buf chunk : Bytes) : Extraction := extract init (bufAppend buf chunk)

/-- The hardware's own form of the same operation: one byte at a time, extracting after each (R151). -/
def appendByteSerial (init : Word16) : Bytes → Bytes → Extraction
  | buf, [] => ⟨[], [], buf⟩
  | buf, b :: chunk =>
    let e := extract init (bufAppend buf [b])
    let r := appendByteSerial init e.buf chunk
    ⟨e.frames ++ r.frames, e.fails ++ r.fails, r.buf⟩

end Sys2Proof.Machine
end

