-- ==== Sys2Proof/Machine/Flags.lean ====
section
/-! DEFINITION. The one-bit elements and the session state register. WPE has no condition codes (spec/10_state.md
R48): its one-bit elements are `write_avail`, `brk_en`, `unlocked` and `auto_spent` (R32), and each is written by
the operations below alone; `fsm` is advanced by the rules R200 to R209 of spec/43_session.md. -/

namespace Sys2Proof.Machine

/-- `write_avail <- w` (spec/10_state.md R41). -/
def setWriteAvail (w : Bool) (s : State) : State := { s with writeAvail := w }

/-- `brk_en <- b` (R42). -/
def setBrkEn (b : Bool) (s : State) : State := { s with brkEn := b }

/-- `unlocked <- u` (R45). -/
def setUnlocked (u : Bool) (s : State) : State := { s with unlocked := u }

/-- `auto_spent <- a` (R46). -/
def setAutoSpent (a : Bool) (s : State) : State := { s with autoSpent := a }

/-- `fsm <- f` (R40). -/
def setFsm (f : Fsm) (s : State) : State := { s with fsm := f }

/-- `fsm` is Idle or Disconnected: no connection is there (spec/43_session.md R201, R202). -/
def Fsm.offline : Fsm → Bool
  | .idle => true
  | .disconnected => true
  | .awaitingCharacteristics => false
  | .ready => false
  | .polling => false
  | .streaming => false
  | .securityLocked => false

/-- `fsm` is Ready, Polling or Streaming: the states CS.POLLSTATE and a security refusal leave (R204, R205). -/
def Fsm.live : Fsm → Bool
  | .ready => true
  | .polling => true
  | .streaming => true
  | .idle => false
  | .awaitingCharacteristics => false
  | .securityLocked => false
  | .disconnected => false

/-- The 3-bit state code (R40). -/
def Fsm.code : Fsm → BitVec 3
  | .idle => 0
  | .awaitingCharacteristics => 1
  | .ready => 2
  | .polling => 3
  | .streaming => 4
  | .securityLocked => 5
  | .disconnected => 6

/-- The state a CS.CHANNEL(w) leaves, from a state that is not offline (R202). -/
def Fsm.onChannel (f : Fsm) (w : Bool) : Fsm :=
  if w ∧ f = .awaitingCharacteristics then .ready else f

/-- The state a CS.POLLSTATE leaves (R204). -/
def Fsm.onPollstate (f : Fsm) (p : PState) : Fsm :=
  if f.live then
    match p with
    | .polling => .polling
    | .streaming => .streaming
  else f

/-- The state a security refusal of the current-value command leaves (R181, R205). -/
def Fsm.onSecurityRefusal (f : Fsm) : Fsm := if f.live then .securityLocked else f

/-- The state a passcode response with Ack leaves (R186, R206). -/
def Fsm.onPasscodeAck (f : Fsm) : Fsm := if f = .securityLocked then .polling else f

end Sys2Proof.Machine
end

