-- ==== Sys2Proof/Machine/Operands.lean ====
section
/-! DEFINITION. The operand forms and the small decoders of WPE: command classes (spec/30_encoding.md R91), the
status byte (R90), the passcode text and its bytes (R93). -/

namespace Sys2Proof.Machine

/-- The six command classes, in the order of their operand codes (R91). -/
def allCommands : List Command :=
  [.currentValue, .recordingSettings, .passcode, .settingsWrite, .start, .stop]

/-- The class a 3-bit operand code names; 6 and 7 name none (R91, R96). -/
def commandOfCode (c : BitVec 3) : Option Command :=
  if c = 0 then some .currentValue
  else if c = 1 then some .recordingSettings
  else if c = 2 then some .passcode
  else if c = 3 then some .settingsWrite
  else if c = 4 then some .start
  else if c = 5 then some .stop
  else none

/-- `classify(b)`: the class whose RESP_CODE is `b`, or none for UnknownCommand (R91). -/
def classify (P : Params) (b : Byte) : Option Command :=
  allCommands.find? (fun c => P.respCode c == b)

/-- `status(payload)` (R90). -/
def statusOf (P : Params) (payload : Bytes) : Status :=
  match payload with
  | [] => .missing
  | v :: _ =>
    if v = Config.statusAck then .ack
    else if v = P.statusBusy then .busy
    else if P.refuses v then .refuse v
    else .unknown v

/-- The value of a numeric character, one of the ten ASCII characters 0x30 to 0x39 (R93,
spec/92_eei_decisions.md D3). -/
def digitOf (ch : Char) : Option Nat :=
  if 0x30 ≤ ch.toNat ∧ ch.toNat ≤ 0x39 then some (ch.toNat - 0x30) else none

/-- The values of all characters of a text, if every one is numeric. -/
def digitsOf : Text → Option (List Nat)
  | [] => some []
  | ch :: rest =>
    match digitOf ch, digitsOf rest with
    | some d, some ds => some (d :: ds)
    | _, _ => none

/-- The byte two passcode digits make (R93; PASS_PACKING of spec/00_scope.md R11). -/
def packDigits (packing : PassPacking) (d0 d1 : Nat) : Byte :=
  match packing with
  | .packedBcd => BitVec.ofNat 8 (16 * d0 + d1)
  | .base10 => BitVec.ofNat 8 (10 * d0 + d1)

/-- `passenc(s)`: exactly eight numeric characters make four bytes; any other text is an error, here none
(R93). -/
def passenc (P : Params) (s : Text) : Option Bytes :=
  match digitsOf s with
  | some [d0, d1, d2, d3, d4, d5, d6, d7] =>
    some [packDigits P.packing d0 d1, packDigits P.packing d2 d3, packDigits P.packing d4 d5,
      packDigits P.packing d6 d7]
  | _ => none

/-- The numeric character of a decimal digit. -/
def digitChar (d : BitVec 4) : Char := Char.ofNat (0x30 + d.toNat)

end Sys2Proof.Machine
end

