-- ==== Sys2Proof/Machine/Ops.lean ====
section
/-! DEFINITION. The shared operations over the state: events and errors (spec/60_exceptions.md R260), the
assembler on the state (spec/42_frame_assembler.md R150), the one procedure that sends (spec/43_session.md R171),
correlation (R176), and the handling of a received frame (R175 to R190). Each takes the configuration as its
first argument; the meanings give it `Config.wpe`. -/

namespace Sys2Proof.Machine

/-! ### The operation port -/

/-- The beginning of an operation: it answers nothing yet and its event list is empty (spec/00_scope.md R14). -/
def begin (s : State) : State := { s with result := .none, events := [] }

/-- The presentation the host makes next, and the state once it has left the port; none where nothing is presented
(R15, log entry 1). -/
def fetch (s : State) : Option (Presentation × State) :=
  match s.port with
  | [] => none
  | p :: later => some (p, { s with port := later })

/-- The state with a presentation made next, before what the host would have presented. -/
def presentFirst (p : Presentation) (s : State) : State := { s with port := p :: s.port }

/-- The result of the operation in progress. -/
def answer (r : Result) (s : State) : State := { s with result := r }

/-- `emit E(args)`: append an event to the list of the operation in progress (R13). -/
def emit (e : Event) (s : State) : State := { s with events := s.events ++ [e] }

/-- `raise E(info)`: WPE's only form of exception. It appends EV_ERROR and nothing else: no state is saved, no
mode changes, control goes nowhere (spec/60_exceptions.md R260, R268). There is no return from it (R269). -/
def raise (k : ErrorKind) (s : State) : State := emit (.error k) s

/-! ### The assembler on the state -/

/-- The LOG_CRC_FAIL events of a list of failed candidates, in order (R154). -/
def logFails (fails : List Bytes) (s : State) : State :=
  { s with events := s.events ++ fails.map Event.logCrcFail }

/-- FA.APPEND on the state: the buffer is updated, each failed candidate logged, the frames returned (R150). -/
def assemble (P : Params) (chunk : Bytes) (s : State) : List Frame × State :=
  let e := appendChunk P.crcInit s.buf chunk
  (e.frames, logFails e.fails { s with buf := e.buf })

/-! ### Sending -/

/-- `emit TX(bytes); emit LOG_TX(bytes)` (R171, R203). -/
def transmit (bytes : Bytes) (s : State) : State := emit (.logTx bytes) (emit (.tx bytes) s)

/-- Append an expectation, the oldest leaving a full store without an event (spec/10_state.md R43, R171). -/
def pushExpect (e : Expectation) (s : State) : State :=
  { s with expect := (if s.expect.length = Config.expectDepth then s.expect.drop 1 else s.expect) ++ [e] }

/-- `seq <- (seq + 1) mod 256` (R171). -/
def bumpSeq (s : State) : State := { s with seq := s.seq + 1 }

/-- Put a frame at the tail of the deferral queue (R173). -/
def pushDefer (bytes : Bytes) (s : State) : State := { s with defer := s.defer ++ [bytes] }

/-- The two answers of `do_send`: accepted or refused, and the state. -/
structure Sent where
  accepted : Bool
  state : State
  deriving DecidableEq, Repr

/-- `do_send(c, payload)` (R171): the length test, then the queue test, then the frame with the sequence number
before the increment. -/
def doSend (P : Params) (c : Command) (payload : Bytes) (s : State) : Sent :=
  if payload.length > Config.maxPayload then
    ⟨false, raise (.payloadTooLong payload.length) s⟩
  else if s.writeAvail = false ∧ s.defer.length = Config.deferDepth then
    ⟨false, raise (.deferOverflow c) s⟩
  else
    let bytes := encodeFrame P.crcInit (P.cmdCode c) s.seq payload s.brkEn
    let s' := bumpSeq (pushExpect ⟨c, P.respCode c, s.seq⟩ s)
    if s.writeAvail then ⟨true, transmit bytes s'⟩ else ⟨true, pushDefer bytes s'⟩

/-- `flush()`: the deferred frames go out, oldest first, and the queue is empty (R203). -/
def flush (s : State) : State :=
  { s.defer.foldl (fun t bytes => transmit bytes t) s with defer := [] }

/-! ### Receiving -/

/-- The oldest expectation with the given response code, and the others in their order (R176). -/
def takeExpect (resp : Byte) : List Expectation → Option (Expectation × List Expectation)
  | [] => none
  | e :: rest =>
    if e.resp = resp then some (e, rest)
    else
      match takeExpect resp rest with
      | none => none
      | some (x, others) => some (x, e :: others)

/-- `correlate(f)` (R176). -/
def correlate (f : Frame) (s : State) : Tag × State :=
  match takeExpect f.command s.expect with
  | none => (.unsolicited, s)
  | some (e, others) => (.solicited e.cls e.seq (decide (f.sequence = e.seq)), { s with expect := others })

/-- `PASSCODE_LOOKUP(id)`: the host's answer, from the first of its tables; a call uses up the first table as
long as another follows (log entry 12). -/
def askPasscode (id : DeviceId) (s : State) : Option Text × State :=
  match s.lookup with
  | [] => (none, s)
  | [t] => (List.lookup id t, s)
  | t :: ts => (List.lookup id t, { s with lookup := ts })

/-- Current-value response, Ack (R180). -/
def onCurrentAck (P : Params) (f : Frame) (now : Time) (s : State) : State :=
  match P.decodeCurrent f.payload with
  | some r =>
    emit (.snapshot { DeviceSnapshot.empty with isRecording := some r.isRecording, securityOn := some r.securityOn })
      { emit (.reading ⟨now, r.channel, r.value, r.errorFlag⟩) s with
        snap := { s.snap with isRecording := some r.isRecording, securityOn := some r.securityOn } }
  | none => emit (.logDecodeFail f) s

/-- The automatic passcode send of R181, for a device identity. -/
def autoUnlock (P : Params) (id : DeviceId) (s : State) : State :=
  match askPasscode id s with
  | (none, s1) => s1
  | (some text, s1) =>
    match passenc P text with
    | none => raise .validationPasscodeFormat s1
    | some p =>
      let r := doSend P .passcode p s1
      if r.accepted then setAutoSpent true r.state else r.state

/-- Current-value response, security-locked refusal (R181). -/
def onSecurityRefusal (P : Params) (s : State) : State :=
  let s1 := emit .securityNeeded (setFsm s.fsm.onSecurityRefusal (setUnlocked false s))
  if s.autoSpent then s1
  else
    match s.deviceId with
    | none => s1
    | some id => autoUnlock P id s1

/-- Recording-settings response, Ack (R184). -/
def onSettingsAck (P : Params) (f : Frame) (s : State) : State :=
  match P.decodeSettings f.payload with
  | some r =>
    emit (.snapshot { DeviceSnapshot.empty with
        intervalSeconds := some r.intervalSeconds, mode := some r.mode, securityOn := some r.securityOn })
      { s with snap := { s.snap with
          intervalSeconds := some r.intervalSeconds, mode := some r.mode, securityOn := some r.securityOn } }
  | none => emit (.logDecodeFail f) s

/-- Recording-settings response, any other status (R185). -/
def onSettingsError (st : Status) (s : State) : State :=
  emit (.snapshot { DeviceSnapshot.empty with lastError := some st })
    { s with snap := { s.snap with lastError := some st } }

/-- Passcode response, Ack (R186). -/
def onPasscodeAck (s : State) : State :=
  emit .pollStart (emit .unlocked (setFsm s.fsm.onPasscodeAck (setAutoSpent false (setUnlocked true s))))

/-- A current-value response (R180 to R183). -/
def onCurrentValue (P : Params) (st : Status) (f : Frame) (now : Time) (s : State) : State :=
  match st with
  | .ack => onCurrentAck P f now s
  | .refuse r => if r = P.reasonLocked then onSecurityRefusal P s else raise (.refused .currentValue r) s
  | .busy => emit (.logUnhandledStatus .currentValue .busy) s
  | .unknown x => emit (.logUnhandledStatus .currentValue (.unknown x)) s
  | .missing => emit (.logUnhandledStatus .currentValue .missing) s

/-- A recording-settings response (R184, R185). -/
def onRecordingSettings (P : Params) (st : Status) (f : Frame) (s : State) : State :=
  match st with
  | .ack => onSettingsAck P f s
  | .refuse r => onSettingsError (.refuse r) s
  | .busy => onSettingsError .busy s
  | .unknown x => onSettingsError (.unknown x) s
  | .missing => onSettingsError .missing s

/-- A passcode response (R186 to R188). -/
def onPasscode (st : Status) (s : State) : State :=
  match st with
  | .ack => onPasscodeAck s
  | .refuse r => raise (.passcodeRejected r) (setAutoSpent true s)
  | .busy => emit (.logUnhandledStatus .passcode .busy) s
  | .unknown x => emit (.logUnhandledStatus .passcode (.unknown x)) s
  | .missing => emit (.logUnhandledStatus .passcode .missing) s

/-- A settings-write, start or stop response (R189). -/
def onWrite (P : Params) (c : Command) (st : Status) (s : State) : State :=
  match st with
  | .ack => (doSend P .recordingSettings P.settingsReadPayload s).state
  | .refuse r => raise (.refused c r) s
  | .busy => emit (.logUnhandledStatus c .busy) s
  | .unknown x => emit (.logUnhandledStatus c (.unknown x)) s
  | .missing => emit (.logUnhandledStatus c .missing) s

/-- `handle(c, st, f, now)`: one handler for every command class (R177). -/
def handle (P : Params) (c : Command) (st : Status) (f : Frame) (now : Time) (s : State) : State :=
  match c with
  | .currentValue => onCurrentValue P st f now s
  | .recordingSettings => onRecordingSettings P st f s
  | .passcode => onPasscode st s
  | .settingsWrite => onWrite P .settingsWrite st s
  | .start => onWrite P .start st s
  | .stop => onWrite P .stop st s

/-- `CS.RECV(f, now)` on the state: correlate, log, dispatch (R175). The matched expectation leaves the store on every
response (R43, R175, R176), one whose handler raises an error included, where spec/60_exceptions.md R263 and R268 call
the state unchanged: log entry 25: DEDUCED. -/
def receive (P : Params) (f : Frame) (now : Time) (s : State) : State :=
  let c := correlate f s
  let s1 := emit (.logRx f c.1) c.2
  match classify P f.command with
  | none => emit (.logUnknownCmd f) s1
  | some cls => handle P cls (statusOf P f.payload) f now s1

/-- The frames of one notification, each counted as an arrival and then received
(spec/42_frame_assembler.md R160). -/
def receiveAll (P : Params) (now : Time) (fs : List Frame) (s : State) : State :=
  fs.foldl (fun t f => receive P f now (emit (.arrival now) t)) s

end Sys2Proof.Machine
end

