-- ==== Sys2Proof/Machine/Block.lean ====
section
/-! DEFINITION. The operations of the whole block: WPE.RESET (spec/70_reset_and_hazards.md R290) and an operation
code outside the table (spec/30_encoding.md R96). -/

namespace Sys2Proof.Machine

/-- WPE.RESET: every state element at its reset value, no event, no result (R290). What the host presents next and
the passcodes it knows are the host's and stay (R293). -/
def wpeResetWith (P : Params) (s : State) : State :=
  { begin s with
    crc := P.crcInit
    buf := []
    seq := Config.seqReset
    fsm := .idle
    writeAvail := false
    brkEn := false
    deviceId := none
    unlocked := false
    autoSpent := false
    expect := []
    defer := []
    snap := DeviceSnapshot.empty }

/-- WPE.RESET (R290). -/
def execWpeReset (s : State) : Host.Outcome State Fault Refusal :=
  .next (wpeResetWith Config.wpe s)

/-- An illegal operation code: no state changes, no result, the single event EV_ERROR(IllegalOp, op) (R96). -/
def execIllegalOp (op : Byte) (s : State) : Host.Outcome State Fault Refusal :=
  .next (raise (.illegalOp op) (begin s))

end Sys2Proof.Machine
end

