-- ==== Sys2Proof/Machine/Crcu.lean ====
section
/-! DEFINITION. The operations of the checksum unit CRCU (spec/40_crc_unit.md). No other operation but WPE.RESET
writes `crc` (spec/10_state.md R34). -/

namespace Sys2Proof.Machine

/-- CRC.INIT: `crc <- CRC_INIT` (R113). -/
def crcInitWith (P : Params) (s : State) : State := { begin s with crc := P.crcInit }

/-- CRC.INIT (R113). -/
def execCrcInit (s : State) : Host.Outcome State Fault Refusal :=
  .next (crcInitWith Config.wpe s)

/-- CRC.UPDATE b: `crc <- crc_step(crc, b)` (R114). -/
def execCrcUpdate (b : Byte) (s : State) : Host.Outcome State Fault Refusal :=
  .next { begin s with crc := crcStep s.crc b }

/-- CRC.READ: `return crc`, which keeps its value (R115). -/
def execCrcRead (s : State) : Host.Outcome State Fault Refusal :=
  .next (answer (.value s.crc) (begin s))

/-- CRC.BLOCK data: `crc <- crc16(data); return crc` (R116). -/
def crcBlockWith (P : Params) (data : Bytes) (s : State) : State :=
  answer (.value (crc16 P.crcInit data)) { begin s with crc := crc16 P.crcInit data }

/-- CRC.BLOCK data (R116). -/
def execCrcBlock (data : Bytes) (s : State) : Host.Outcome State Fault Refusal :=
  .next (crcBlockWith Config.wpe data s)

end Sys2Proof.Machine
end

