-- ==== Sys2Proof/Machine/Crs.lean ====
section
/-! DEFINITION. The operations of the command/response session CRS (spec/43_session.md). -/

namespace Sys2Proof.Machine

/-- CS.SEND c, payload: `do_send`; a class operand of 6 or 7 is illegal and changes nothing (R170, R171,
spec/30_encoding.md R96). -/
def csSendWith (P : Params) (c : BitVec 3) (payload : Bytes) (s : State) : State :=
  match commandOfCode c with
  | none => raise (.illegalOperand c) (begin s)
  | some cls => (doSend P cls payload (begin s)).state

/-- CS.SEND (R170). -/
def execCsSend (c : BitVec 3) (payload : Bytes) (s : State) : Host.Outcome State Fault Refusal :=
  .next (csSendWith Config.wpe c payload s)

/-- CS.RECV f, now (R175). -/
def csRecvWith (P : Params) (f : Frame) (now : Time) (s : State) : State := receive P f now (begin s)

/-- CS.RECV (R175). -/
def execCsRecv (f : Frame) (now : Time) (s : State) : Host.Outcome State Fault Refusal :=
  .next (csRecvWith Config.wpe f now s)

/-- CS.CONNECT id, brk: from Idle or Disconnected only (R201). -/
def execCsConnect (id : DeviceId) (brk : Bool) (s : State) : Host.Outcome State Fault Refusal :=
  .next
    (if s.fsm.offline then
      setFsm .awaitingCharacteristics (setBrkEn brk { begin s with deviceId := some id })
    else raise (.illegalState .csConnect s.fsm) (begin s))

/-- CS.CHANNEL w: not in Idle or Disconnected; with w = 1 the deferred frames go out (R202, R203). -/
def execCsChannel (w : Bool) (s : State) : Host.Outcome State Fault Refusal :=
  .next
    (if s.fsm.offline then raise (.illegalState .csChannel s.fsm) (begin s)
    else
      let s1 := setFsm (s.fsm.onChannel w) (setWriteAvail w (begin s))
      if w then flush s1 else s1)

/-- CS.POLLSTATE p: ignored without an event outside Ready, Polling and Streaming (R204). -/
def execCsPollstate (p : PState) (s : State) : Host.Outcome State Fault Refusal :=
  .next (setFsm (s.fsm.onPollstate p) (begin s))

/-- CS.DISCONNECT: accepted in every state; everything of the connection is cleared, `crc` is not touched
(R208). -/
def execCsDisconnect (s : State) : Host.Outcome State Fault Refusal :=
  .next
    { begin s with
      buf := []
      expect := []
      defer := []
      seq := Config.seqReset
      writeAvail := false
      brkEn := false
      deviceId := none
      unlocked := false
      autoSpent := false
      snap := DeviceSnapshot.empty
      fsm := .disconnected }

/-- CS.PASSENC s: four bytes, or the validation error and no bytes (R195). -/
def csPassencWith (P : Params) (text : Text) (s : State) : State :=
  match passenc P text with
  | none => raise .validationPasscodeFormat (begin s)
  | some p => answer (.bytes p) (begin s)

/-- CS.PASSENC (R195). -/
def execCsPassenc (text : Text) (s : State) : Host.Outcome State Fault Refusal :=
  .next (csPassencWith Config.wpe text s)

/-- CS.UNLOCK s: validate, then send the passcode command (R196). -/
def csUnlockWith (P : Params) (text : Text) (s : State) : State :=
  match passenc P text with
  | none => raise .validationPasscodeFormat (begin s)
  | some p => (doSend P .passcode p (begin s)).state

/-- CS.UNLOCK (R196). -/
def execCsUnlock (text : Text) (s : State) : Host.Outcome State Fault Refusal :=
  .next (csUnlockWith Config.wpe text s)

end Sys2Proof.Machine
end

