-- ==== Sys2Proof/Machine/Fau.lean ====
section
/-! DEFINITION. The operations of the frame assembler FAU (spec/42_frame_assembler.md R150, R158) and the
composite WPE.NOTIFY that feeds its frames to the session (R160). -/

namespace Sys2Proof.Machine

/-- FA.APPEND chunk: the frames found, the buffer left, one LOG_CRC_FAIL per failed candidate (R150, R154). -/
def faAppendWith (P : Params) (chunk : Bytes) (s : State) : State :=
  let r := assemble P chunk (begin s)
  answer (.frames r.1) r.2

/-- FA.APPEND (R150). -/
def execFaAppend (chunk : Bytes) (s : State) : Host.Outcome State Fault Refusal :=
  .next (faAppendWith Config.wpe chunk s)

/-- FA.RESET: `BUF <- []` (R158). -/
def execFaReset (s : State) : Host.Outcome State Fault Refusal :=
  .next { begin s with buf := [] }

/-- WPE.NOTIFY chunk, now: FA.APPEND, then for each frame in order EV_ARRIVAL and CS.RECV; the frames are the
result (R160). -/
def wpeNotifyWith (P : Params) (chunk : Bytes) (now : Time) (s : State) : State :=
  let r := assemble P chunk (begin s)
  answer (.frames r.1) (receiveAll P now r.1 r.2)

/-- WPE.NOTIFY (R160). -/
def execWpeNotify (chunk : Bytes) (now : Time) (s : State) : Host.Outcome State Fault Refusal :=
  .next (wpeNotifyWith Config.wpe chunk now s)

end Sys2Proof.Machine
end

