-- ==== Sys2Proof/Machine/Fcu.lean ====
section
/-! DEFINITION. The operations of the frame codec FCU, which read and write no state element
(spec/41_frame_codec.md R130, R135). -/

namespace Sys2Proof.Machine

/-- FC.ENCODE cmd, seq, payload, brk: the encoded bytes, or the error of R132 and no bytes (R130). -/
def fcEncodeWith (P : Params) (cmd seq : Byte) (payload : Bytes) (brk : Bool) (s : State) : State :=
  if payload.length > Config.maxPayload then raise (.payloadTooLong payload.length) (begin s)
  else answer (.bytes (encodeFrame P.crcInit cmd seq payload brk)) (begin s)

/-- FC.ENCODE (R130). -/
def execFcEncode (cmd seq : Byte) (payload : Bytes) (brk : Bool) (s : State) : Host.Outcome State Fault Refusal :=
  .next (fcEncodeWith Config.wpe cmd seq payload brk s)

/-- FC.DECODE data: a frame or `nil`, with no event (R135, spec/60_exceptions.md R265). -/
def fcDecodeWith (P : Params) (data : Bytes) (s : State) : State :=
  answer (.decoded (decodeFrame P.crcInit data)) (begin s)

/-- FC.DECODE (R135). -/
def execFcDecode (data : Bytes) (s : State) : Host.Outcome State Fault Refusal :=
  .next (fcDecodeWith Config.wpe data s)

end Sys2Proof.Machine
end

