-- ==== Sys2Proof/Machine/Formats.lean ====
section
/-! DEFINITION. The four rows of the opcode table that are formats and no port operations. Each meaning answers
with the value the spec's function for that format gives and changes no state element (log entry 4). -/

namespace Sys2Proof.Machine

/-- FRAME: the bytes of the frame format, read by `decode` (spec/30_encoding.md R80, spec/41_frame_codec.md
R136). -/
def frameWith (P : Params) (cmd seq : Byte) (payload : Bytes) (crc : Word16) (s : State) : State :=
  answer (.decoded (decodeFrame P.crcInit (WireFrame.bytes ⟨cmd, seq, payload, crc⟩))) (begin s)

/-- FRAME (R80). -/
def execFrame (cmd seq : Byte) (payload : Bytes) (crc : Word16) (s : State) : Host.Outcome State Fault Refusal :=
  .next (frameWith Config.wpe cmd seq payload crc s)

/-- STATUS: the status of a response's payload (spec/30_encoding.md R90). -/
def execStatus (payload : Bytes) (s : State) : Host.Outcome State Fault Refusal :=
  .next (answer (.status (statusOf Config.wpe payload)) (begin s))

/-- PASSCODE: the four bytes of eight decimal digits; a nibble above 9 is no numeric character and gives the
validation error (R93). -/
def passcodeWith (P : Params) (digits : List (BitVec 4)) (s : State) : State :=
  match passenc P (digits.map digitChar) with
  | none => raise .validationPasscodeFormat (begin s)
  | some p => answer (.bytes p) (begin s)

/-- PASSCODE (R93). -/
def execPasscode (a b c d e f g h : BitVec 4) (s : State) : Host.Outcome State Fault Refusal :=
  .next (passcodeWith Config.wpe [a, b, c, d, e, f, g, h] s)

/-- COMMAND-CLASS: the class of a received command byte (R91). -/
def execCommandClass (b : Byte) (s : State) : Host.Outcome State Fault Refusal :=
  .next (answer (.cls (classify Config.wpe b)) (begin s))

end Sys2Proof.Machine
end

