-- ==== Sys2Proof/Machine/Dispatch.lean ====
section
/-! DEFINITION. One arm per instruction: each calls that instruction's meaning. -/

namespace Sys2Proof.Machine

def exec (i : Instr) (s : State) : Host.Outcome State Fault Refusal :=
  match i with
  | .wpeReset => Sys2Proof.Machine.execWpeReset s
  | .wpeNotify chunk now => Sys2Proof.Machine.execWpeNotify chunk now s
  | .crcInit => Sys2Proof.Machine.execCrcInit s
  | .crcUpdate b => Sys2Proof.Machine.execCrcUpdate b s
  | .crcRead => Sys2Proof.Machine.execCrcRead s
  | .crcBlock data => Sys2Proof.Machine.execCrcBlock data s
  | .fcEncode cmd seq payload brk => Sys2Proof.Machine.execFcEncode cmd seq payload brk s
  | .fcDecode data => Sys2Proof.Machine.execFcDecode data s
  | .faAppend chunk => Sys2Proof.Machine.execFaAppend chunk s
  | .faReset => Sys2Proof.Machine.execFaReset s
  | .csSend c payload => Sys2Proof.Machine.execCsSend c payload s
  | .csRecv f now => Sys2Proof.Machine.execCsRecv f now s
  | .csConnect id brk => Sys2Proof.Machine.execCsConnect id brk s
  | .csChannel w => Sys2Proof.Machine.execCsChannel w s
  | .csPollstate p => Sys2Proof.Machine.execCsPollstate p s
  | .csDisconnect => Sys2Proof.Machine.execCsDisconnect s
  | .csPassenc text => Sys2Proof.Machine.execCsPassenc text s
  | .csUnlock text => Sys2Proof.Machine.execCsUnlock text s
  | .illegalOp op => Sys2Proof.Machine.execIllegalOp op s
  | .frame cmd seq payload crc => Sys2Proof.Machine.execFrame cmd seq payload crc s
  | .status payload => Sys2Proof.Machine.execStatus payload s
  | .passcode a b c d e f g h => Sys2Proof.Machine.execPasscode a b c d e f g h s
  | .commandClass b => Sys2Proof.Machine.execCommandClass b s

end Sys2Proof.Machine
end

