-- ==== Sys2Proof/Machine/Step.lean ====
section
/-! DEFINITION. One step: the operation the host presents next is taken from the port, decoded and performed to
completion (spec/00_scope.md R5, R14, R15). -/

namespace Sys2Proof.Machine

/-- One step. With nothing presented WPE holds its state (spec/60_exceptions.md R276, log entry 2). A presentation
leaves the port when it is taken; one that is no instruction is refused by name (log entry 3). -/
def step (s : State) : Host.Outcome State Fault Refusal :=
  match fetch s with
  | none => .next s
  | some (p, s') =>
    match decode p with
    | .ok i => exec i s'
    | .error e => .refused (.malformedPresentation e)

/-- The state with a word of the opcode table presented next; what the host would have presented comes after it
(log entry 21). -/
def State.withFetchWord (s : State) (nbits w : Nat) : State :=
  presentFirst (tablePresentation nbits w) s

end Sys2Proof.Machine
end

