-- ==== Sys2Proof/Machine/PacketParser.lean ====
section
/-! DEFINITION. The packet parser (spec/44_adjacent_components.md R245 to R250): a component of the same document
that stands OUTSIDE the block (spec/00_scope.md R4), independent of everything else, given here as a function of raw
bytes. `step` does not run it: the spec keeps the session's decoding behind the parameter decode_current (R251).
Log entry 23. -/

namespace Sys2Proof.Machine

/-- A number of tenths of a degree with its sign kept apart, so that minus zero is a value of its own (R250,
spec/93_implementation_defined.md U23). -/
structure Tenths where
  negative : Bool
  magnitude : Nat
  deriving DecidableEq, Repr

/-- The reading's number for a count of tenths of a degree. -/
def celsiusOfTenths (t : Tenths) : Celsius := ⟨Config.celsiusPattern t.negative t.magnitude⟩

/-- An integer as tenths. -/
def tenthsOfInt (n : Int) : Tenths := ⟨n < 0, n.natAbs⟩

/-- The binary dialect: its acceptance (R246) and the tenths of a degree it reads, `raw - 1000` (R247). -/
def parseBinary (b : Bytes) : Option Tenths :=
  match b with
  | s :: cmd :: sub :: lo :: hi :: p0 :: p1 :: _ =>
    if 11 ≤ b.length ∧ s = Config.soh ∧ cmd = Config.parserCommandCode ∧ (sub = 0x00 ∨ sub = 0x80) ∧
        Config.hdrLen + le16 lo hi + Config.crcLen ≤ b.length then
      some (tenthsOfInt ((be16 p1 p0).toInt - 1000))
    else none
  | _ => none

/-- The printable ASCII characters of a buffer, in order (R248). -/
def printable (b : Bytes) : Text :=
  (b.filter (fun x => 0x20 ≤ x.toNat ∧ x.toNat ≤ 0x7E)).map (fun x => Char.ofNat x.toNat)

/-- A sign character (R248). -/
def isSign (c : Char) : Bool := c == '+' || c == '-'

/-- A digit character. -/
def isDigitChar (c : Char) : Bool := decide (0x30 ≤ c.toNat ∧ c.toNat ≤ 0x39)

/-- Decimal digits as a number, first digit highest. -/
def decimal (cs : Text) : Nat := cs.foldl (fun n c => 10 * n + (c.toNat - 0x30)) 0

/-- The digits that stand immediately before the sign, at most three, in order (R248, R249). -/
def idDigits (before : Text) : Text := ((before.reverse.take 3).takeWhile isDigitChar).reverse

/-- The digits that stand immediately after the sign, at most six (R248). -/
def magnitudeDigits (after : Text) : Text := (after.take 6).takeWhile isDigitChar

/-- One text stands somewhere in another. -/
def textContains (needle : Text) : Text → Bool
  | [] => needle.isEmpty
  | c :: rest => needle.isPrefixOf (c :: rest) || textContains needle rest

/-- The error flag a text sets (R248): "B-OUT" is the one substring the document's example gives. -/
def textFlag (t : Text) : Option SensorError :=
  if textContains ['B', '-', 'O', 'U', 'T'] t then some .sensorDisconnected else Config.parserFurtherFlag t

/-- The ASCII dialect: the channel, the tenths of a degree and the error flag, or nothing (R248, R249). -/
def parseAscii (b : Bytes) : Option (Option Int × Tenths × Option SensorError) :=
  let t := printable b
  if t.length < 8 then none
  else
    match t.dropWhile (fun c => !isSign c) with
    | [] => none
    | sign :: after =>
      let id := idDigits (t.takeWhile (fun c => !isSign c))
      let digits := magnitudeDigits after
      if digits.length < 2 then none
      else
        some (if id.isEmpty then none else some (decimal id : Int), ⟨sign == '-', decimal digits⟩, textFlag t)

/-- The parser: the binary dialect first, the ASCII dialect as fallback (R245). The spec gives it raw bytes alone and
does not say where the reading's `capturedAt` comes from: here it is the operand `now`; nor does it say which error flag
a binary reading carries: here none. Log entry 23: DESIGN CHOICE. -/
def parsePacket (now : Time) (b : Bytes) : Option TemperatureReading :=
  match parseBinary b with
  | some v => some ⟨now, Config.parserChannel, celsiusOfTenths v, none⟩
  | none =>
    match parseAscii b with
    | some (channel, v, flag) => some ⟨now, channel, celsiusOfTenths v, flag⟩
    | none => none

end Sys2Proof.Machine
end

