-- ==== Sys2Proof/Machine/Polling.lean ====
section
/-! DEFINITION. The adaptive polling controller (spec/44_adjacent_components.md R230 to R238): a component of the
same document that stands OUTSIDE the block (spec/00_scope.md R4). It is given here as a function of its own
metrics, so that the events EV_ARRIVAL and EV_POLL_START and the operation CS.POLLSTATE have the meaning the spec
gives them. `step` does not run it: its decisions reach WPE as operations the host presents (log entry 22). -/

namespace Sys2Proof.Machine

/-- `PollingMetrics`, and the four further things the rules need (R231). -/
structure PollingMetrics where
  notifyCount : Nat
  previousArrival : Option ℚ
  /-- The moving average of the interval between arrivals, in seconds. -/
  ema : Option ℚ
  fastTicks : Nat
  slowTicks : Nat
  /-- `notifyCount` at the previous tick. -/
  countAtTick : Nat
  /-- Active polling is running. -/
  running : Bool
  /-- A start waits for a write channel. -/
  startPending : Bool
  /-- The streaming window is open. -/
  windowOpen : Bool
  /-- A write channel is there: the host knows, it issued CS.CHANNEL (R230). -/
  channel : Bool
  deriving DecidableEq, Repr

/-- The initial values (R231, spec/92_eei_decisions.md D23). Neither lists the pending start or the write channel: there
is none of either here, log entry 22: DESIGN CHOICE. -/
def PollingMetrics.initial : PollingMetrics where
  notifyCount := 0
  previousArrival := none
  ema := none
  fastTicks := 0
  slowTicks := 0
  countAtTick := 0
  running := false
  startPending := false
  windowOpen := false
  channel := false

/-- The derived rate `hz = 1/ema`, which no decision reads (R232). -/
def PollingMetrics.hz (m : PollingMetrics) : Option ℚ := m.ema.map (fun x => 1 / x)

/-- The controller's two timers (R237). -/
inductive PollTimer where
  /-- The repeating 1-second tick. -/
  | tick
  /-- The 3-second streaming hold-off. -/
  | window
  deriving DecidableEq, Repr

/-- What drives the controller (R230, R236, R237). -/
inductive PollInput where
  | arrival (seconds : ℚ)
  | tick
  | windowExpired
  | channel (available : Bool)
  | startRequest
  | disconnect
  deriving DecidableEq, Repr

/-- What the controller decides (R230, R237). Starting a timer cancels its earlier instance. -/
inductive PollOutput where
  | stopPolling
  /-- Active polling starts or resumes, at 5 requests a second unless the host says otherwise (R235). -/
  | startPolling
  | startTimer (t : PollTimer)
  | cancelTimer (t : PollTimer)
  deriving DecidableEq, Repr

/-- The default request rate, requests a second (R235). -/
def pollRequestRate : Nat := 5

/-- The moving average after an interval (R232). -/
def nextEma (ema : Option ℚ) (dt : ℚ) : ℚ :=
  match ema with
  | none => dt
  | some x => x * (1 - 1 / 4) + dt * (1 / 4)

/-- An accepted frame (R232). -/
def pollArrival (seconds : ℚ) (m : PollingMetrics) : PollingMetrics :=
  { m with
    notifyCount := m.notifyCount + 1
    previousArrival := some seconds
    ema :=
      match m.previousArrival with
      | none => m.ema
      | some before => if before < seconds then some (nextEma m.ema (seconds - before)) else m.ema }

/-- The two hysteresis counters after a tick (R233): a rate of 3 or more is fast, of 0 or 1 slow, of 2 neither. -/
def countTick (m : PollingMetrics) : PollingMetrics :=
  let rate := m.notifyCount - m.countAtTick
  { m with
    countAtTick := m.notifyCount
    fastTicks := if 3 ≤ rate then m.fastTicks + 1 else 0
    slowTicks := if rate < 2 then m.slowTicks + 1 else 0 }

/-- The start or resumption of active polling (R235, R236): without a write channel it waits for one. A start while
polling is running asks for nothing new. -/
def startPolling (m : PollingMetrics) : PollingMetrics × List PollOutput :=
  if m.running then (m, [])
  else if m.channel then ({ m with running := true, startPending := false }, [.startPolling])
  else ({ m with startPending := true }, [])

/-- A tick (R233, R234, R235). A counter reaches 2 when it is 2 or more, and "after the streaming window expires" is
read as "no window is open", so that two slow ticks resume polling also where no window was ever opened: log entry 22:
DESIGN CHOICE. -/
def pollTick (m : PollingMetrics) : PollingMetrics × List PollOutput :=
  let m1 := countTick m
  if 2 ≤ m1.fastTicks then
    if m1.running then
      ({ m1 with running := false, windowOpen := true }, [.stopPolling, .startTimer .window])
    else if Config.pollingReopensWindow then ({ m1 with windowOpen := true }, [.startTimer .window])
    else (m1, [])
  else if 2 ≤ m1.slowTicks ∧ m1.windowOpen = false ∧ m1.channel = true then startPolling m1
  else (m1, [])

/-- One input to the controller: its metrics and its decisions (R230 to R237). A start request without a write channel
is kept in every case, inside the streaming window too (R236: "never silently drop the request"), and starts polling when
the channel comes, even if the window is open then, where R234 considers no restart; with a channel inside the window,
whether it is taken up is open (N26). The loss of the channel decides nothing and leaves polling that is
running as it is, and a disconnection resets the metrics: log entry 22: DESIGN CHOICE. -/
def pollStep (i : PollInput) (m : PollingMetrics) : PollingMetrics × List PollOutput :=
  match i with
  | .arrival seconds => (pollArrival seconds m, [])
  | .tick => pollTick m
  | .windowExpired => ({ m with windowOpen := false }, [])
  | .channel available =>
    if available ∧ m.startPending then startPolling { m with channel := available }
    else ({ m with channel := available }, [])
  | .startRequest =>
    if m.windowOpen ∧ m.channel ∧ Config.pollingStartsInWindow = false then (m, []) else startPolling m
  | .disconnect => (PollingMetrics.initial, [.cancelTimer .tick, .cancelTimer .window])

/-- Inputs one after another, the decisions in order. -/
def pollRun : List PollInput → PollingMetrics → PollingMetrics × List PollOutput
  | [], m => (m, [])
  | i :: rest, m =>
    let r := pollStep i m
    let q := pollRun rest r.1
    (q.1, r.2 ++ q.2)

/-- What the controller sees of WPE's events: arrivals and start requests (R230, R236,
spec/60_exceptions.md R261). -/
def pollInputs : List Event → List PollInput
  | [] => []
  | .arrival now :: rest => .arrival (Config.secondsOf now) :: pollInputs rest
  | .pollStart :: rest => .startRequest :: pollInputs rest
  | _ :: rest => pollInputs rest

/-- The operation by which the host reports a decision to WPE (R230). -/
def PollOutput.operation : PollOutput → Option Instr
  | .stopPolling => some (.csPollstate .streaming)
  | .startPolling => some (.csPollstate .polling)
  | .startTimer _ => none
  | .cancelTimer _ => none

end Sys2Proof.Machine
end

