-- ==== Sys2Proof/Machine/Codes.lean ====
section
/-! DEFINITION. The numbers the spec gives events, error kinds and command classes (spec/60_exceptions.md R261,
R263; spec/30_encoding.md R91), and the stream of the document each event belongs to. The state holds the typed
values; a host that wants the numbers reads them here. -/

namespace Sys2Proof.Machine

/-- The code of an event (R261). -/
def Event.code : Event → Byte
  | .tx _ => 0x01
  | .logTx _ => 0x02
  | .logRx _ _ => 0x03
  | .logCrcFail _ => 0x04
  | .logUnknownCmd _ => 0x05
  | .logDecodeFail _ => 0x06
  | .logUnhandledStatus _ _ => 0x07
  | .arrival _ => 0x10
  | .reading _ => 0x11
  | .snapshot _ => 0x12
  | .securityNeeded => 0x13
  | .unlocked => 0x14
  | .pollStart => 0x15
  | .error _ => 0x1F

/-- The document's exposed interfaces, and the polling controller (R261, column "stream"). -/
inductive Stream where
  | byteWriteSink
  | log
  | toPollingController
  | readings
  | snapshots
  | errorSignals
  deriving DecidableEq, Repr

/-- The stream an event belongs to (R261). -/
def Event.stream : Event → Stream
  | .tx _ => .byteWriteSink
  | .logTx _ => .log
  | .logRx _ _ => .log
  | .logCrcFail _ => .log
  | .logUnknownCmd _ => .log
  | .logDecodeFail _ => .log
  | .logUnhandledStatus _ _ => .log
  | .arrival _ => .toPollingController
  | .reading _ => .readings
  | .snapshot _ => .snapshots
  | .securityNeeded => .errorSignals
  | .unlocked => .errorSignals
  | .pollStart => .toPollingController
  | .error _ => .errorSignals

/-- The code of an error kind (R263). -/
def ErrorKind.code : ErrorKind → Nat
  | .validationPasscodeFormat => 1
  | .refused _ _ => 2
  | .passcodeRejected _ => 3
  | .payloadTooLong _ => 4
  | .deferOverflow _ => 5
  | .illegalState _ _ => 6
  | .illegalOp _ => 7
  | .illegalOperand _ => 8

/-- The operand code by which the host names a command class (R91). -/
def operandCode : Command → BitVec 3
  | .currentValue => 0
  | .recordingSettings => 1
  | .passcode => 2
  | .settingsWrite => 3
  | .start => 4
  | .stop => 5

/-- The bytes of an event list that go to the byte-write sink, in order (R261, spec/20_memory.md R71). -/
def txBytes : List Event → List Bytes
  | [] => []
  | .tx b :: rest => b :: txBytes rest
  | _ :: rest => txBytes rest

end Sys2Proof.Machine
end

