-- ==== Sys2Proof/Safety.lean ====
section
/-! DEFINITION. What claims about runs of WPE are stated in: the invariant of its state between operations, the
frames it has queued and sent, and how a byte stream is cut into frames. -/

namespace Sys2Proof.Machine

/-- The bytes of a frame value on the wire, without a break byte (spec/41_frame_codec.md R131). -/
def Frame.wire (f : Frame) : Bytes := encodeFrame Config.wpe.crcInit f.command f.sequence f.payload false

/-- A byte string is a frame WPE encoded for one of its command classes with the given sequence number, with or
without the break byte (spec/43_session.md R171, spec/10_state.md R44). -/
def SentFrame (q : Byte) (b : Bytes) : Prop :=
  ∃ c payload brk, payload.length ≤ Config.maxPayload ∧
    b = encodeFrame Config.wpe.crcInit (Config.wpe.cmdCode c) q payload brk

/-- Byte strings that are frames WPE encoded one after another: their sequence numbers count up from `q`, modulo
256 (R171, spec/20_memory.md R71). -/
def SentFrom : Byte → List Bytes → Prop
  | _, [] => True
  | q, b :: rest => SentFrame q b ∧ SentFrom (q + 1) rest

/-- A byte stream in which frames stand, each after a gap of other bytes: the shape the assembler finds
(spec/42_frame_assembler.md R159). -/
def weave : List Bytes → List Frame → Bytes
  | g :: gs, f :: fs => g ++ Frame.wire f ++ weave gs fs
  | _, _ => []

/-- The frames an operation answered with. -/
def resultFrames : Result → List Frame
  | .frames fs => fs
  | .decoded (some f) => [f]
  | .decoded none => []
  | .none => []
  | .value _ => []
  | .bytes _ => []
  | .status _ => []
  | .cls _ => []

/-- A current-value response that refuses as security-locked (spec/43_session.md R181). -/
def isSecurityRefusal (f : Frame) : Bool :=
  f.command == Config.wpe.respCode .currentValue &&
    statusOf Config.wpe f.payload == .refuse Config.wpe.reasonLocked

/-- A passcode response that acknowledges (R186). -/
def isPasscodeAck (f : Frame) : Bool :=
  f.command == Config.wpe.respCode .passcode && statusOf Config.wpe f.payload == .ack

/-- Operations performed one after another (spec/00_scope.md R15); the events and the result are the last one's. -/
def execAll : List Instr → State → Host.Outcome State Fault Refusal
  | [], s => .next s
  | i :: rest, s =>
    match exec i s with
    | .next t => execAll rest t
    | .fault r => .fault r
    | .refused r => .refused r

/-- The frames of one notification presented to CS.RECV one after another, and all their events in order, each
frame's after the arrival event (spec/42_frame_assembler.md R160). -/
def receiveEach (now : Time) : List Frame → State → State × List Event
  | [], s => (s, [])
  | f :: rest, s =>
    match exec (.csRecv f now) s with
    | .next t => ((receiveEach now rest t).1, (.arrival now :: t.events) ++ (receiveEach now rest t).2)
    | .fault _ => (s, [])
    | .refused _ => (s, [])

/-- The states `fsm` may move to when a frame is received: the two columns of spec/43_session.md R209 that a frame
causes. -/
def fsmOnFrame (f : Frame) : Fsm → Fsm
  | .ready => if isSecurityRefusal f then .securityLocked else .ready
  | .polling => if isSecurityRefusal f then .securityLocked else .polling
  | .streaming => if isSecurityRefusal f then .securityLocked else .streaming
  | .securityLocked => if isPasscodeAck f then .polling else .securityLocked
  | .idle => .idle
  | .awaitingCharacteristics => .awaitingCharacteristics
  | .disconnected => .disconnected

/-- The transition table of `fsm`, cell by cell, for every operation but WPE.NOTIFY, whose frames move it one after
another (R209). -/
def fsmTable : Instr → Fsm → Fsm
  | .wpeReset, _ => .idle
  | .csDisconnect, _ => .disconnected
  | .csConnect _ _, .idle => .awaitingCharacteristics
  | .csConnect _ _, .disconnected => .awaitingCharacteristics
  | .csChannel true, .awaitingCharacteristics => .ready
  | .csPollstate .polling, .ready => .polling
  | .csPollstate .polling, .streaming => .polling
  | .csPollstate .streaming, .ready => .streaming
  | .csPollstate .streaming, .polling => .streaming
  | .csRecv f _, x => fsmOnFrame f x
  | _, x => x

/-- The state invariant between operations. -/
structure Inv (s : State) : Prop where
  /-- The buffer's canonical form (spec/10_state.md R36). -/
  buf : Memory.wf s.buf = true
  /-- The expectation store's depth (R43). -/
  expectDepth : s.expect.length ≤ Config.expectDepth
  /-- Expectations hold response codes of their class (R43). -/
  expectResp : ∀ e ∈ s.expect, e.resp = Config.wpe.respCode e.cls
  /-- The deferral queue's depth (R44). -/
  deferDepth : s.defer.length ≤ Config.deferDepth
  /-- The deferred frames are the last ones encoded, in order (R44, R71). -/
  deferFrames : SentFrom (s.seq - BitVec.ofNat 8 s.defer.length) s.defer
  /-- Nothing stays deferred while a write channel is there (spec/43_session.md R203). -/
  flushed : s.writeAvail = true → s.defer = []
  /-- Without a connection there is no channel, no break byte and no device (R201, R202, R208). -/
  offline : s.fsm.offline = true → s.writeAvail = false ∧ s.brkEn = false ∧ s.deviceId = none
  /-- With a connection there is a device identity (R201). -/
  online : s.fsm.offline = false → s.deviceId ≠ none
  /-- No write channel has been handed over while its characteristics are awaited (R202). -/
  awaiting : s.fsm = .awaitingCharacteristics → s.writeAvail = false
  /-- A security-locked session is not marked unlocked (R181, R186). -/
  locked : s.fsm = .securityLocked → s.unlocked = false

end Sys2Proof.Machine
end

