-- ==== Sys2Proof/Certificates/Slice0/Obligations.lean ====
section
/-! DEFINITION. The statements about WPE, for the provers. Each docstring names what of spec/ it formalises. An
equation `exec i s = .next { s with … }` says at once that the operation completes, what it writes and that every
field it does not name is unchanged. -/

open Sys2Proof Sys2Proof.Machine

/-! ### The checksum unit -/

/-- CRC.INIT (R113): its encoding, its effect and frame in every state, so also in the middle of a sequence of
updates, and the rule's example. -/
def Obligations.CrcInitLoadsInitialValue : Prop :=
  encode .crcInit = .op 0x10 [] ∧
  ∀ s : State, exec .crcInit s = .next { s with crc := Config.wpe.crcInit, result := .none, events := [] } ∧
    ∀ t, exec .crcInit s = .next t → ∃ u, exec .crcRead t = .next u ∧ u.result = .value 0x0000

/-- CRC.UPDATE (R114): encoding, effect and frame for every byte, and the rule's example with its intermediate
values after the XOR and each shift. -/
def Obligations.CrcUpdateAbsorbsByte : Prop :=
  (∀ b, encode (.crcUpdate b) = .op 0x11 [.byte b]) ∧
  (∀ (b : Byte) (s : State),
    exec (.crcUpdate b) s = .next { s with crc := crcStep s.crc b, result := .none, events := [] }) ∧
  (∀ s : State, s.crc = 0x0000 → ∃ t, exec (.crcUpdate 0x01) s = .next t ∧ t.crc = 0x1021) ∧
  (List.range 9).map (fun n => crcShifts n (0x0000 ^^^ atHigh 0x01)) =
    [0x0100, 0x0200, 0x0400, 0x0800, 0x1000, 0x2000, 0x4000, 0x8000, 0x1021]

/-- `crc_step` in the arithmetic of R111: the byte times 256 is XORed in, then eight times the value is doubled
modulo 65536 and XORed with 0x1021 exactly when bit 15 was set before. -/
def Obligations.CrcStepIsEightShiftSteps : Prop :=
  ∀ (c : Word16) (b : Byte),
    crcStep c b =
      (fun v : Word16 =>
        if v.toNat / 32768 = 1 then BitVec.ofNat 16 (v.toNat * 2 % 65536) ^^^ 0x1021
        else BitVec.ofNat 16 (v.toNat * 2 % 65536))^[8] (c ^^^ BitVec.ofNat 16 (b.toNat * 256))

/-- CRC.READ (R115): encoding, result and frame, `crc` keeping its value, and the rule's example: after CRC.INIT and
the nine updates it answers 0x0DBF. -/
def Obligations.CrcReadReturnsAccumulator : Prop :=
  encode .crcRead = .op 0x12 [] ∧
  (∀ s : State, exec .crcRead s = .next { s with result := .value s.crc, events := [] }) ∧
  (∀ s : State, ∃ t,
    execAll (.crcInit :: [0x01, 0x76, 0x00, 0x04, 0x00, 0x78, 0x56, 0x34, 0x12].map Instr.crcUpdate ++ [.crcRead]) s
      = .next t ∧ t.result = .value 0x0DBF)

/-- CRC.BLOCK (R116): encoding, effect, result and frame for every byte string; it is the composite of R97, CRC.INIT,
CRC.UPDATE of each byte in order, CRC.READ; the empty block; the document's two vectors, and the values the same
inputs give from 0xFFFF. -/
def Obligations.CrcBlockChecksumsData : Prop :=
  (∀ d, encode (.crcBlock d) = .op 0x13 [.bytes d]) ∧
  (∀ (d : Bytes) (s : State),
    exec (.crcBlock d) s =
      .next { s with crc := crc16 0x0000 d, result := .value (crc16 0x0000 d), events := [] }) ∧
  (∀ (d : Bytes) (s : State),
    execAll (.crcInit :: d.map Instr.crcUpdate ++ [.crcRead]) s = exec (.crcBlock d) s) ∧
  crc16 0x0000 [] = 0x0000 ∧
  crc16 0x0000 [0x01, 0x76, 0x00, 0x04, 0x00, 0x78, 0x56, 0x34, 0x12] = 0x0DBF ∧
  crc16 0x0000 [0x01, 0x33, 0x00, 0x04, 0x00, 0x00, 0x00, 0x00, 0x00] = 0x632B ∧
  crc16 0xFFFF [0x01, 0x76, 0x00, 0x04, 0x00, 0x78, 0x56, 0x34, 0x12] = 0x15CD ∧
  crc16 0xFFFF [0x01, 0x33, 0x00, 0x04, 0x00, 0x00, 0x00, 0x00, 0x00] = 0x7B59

/-- R112 (a) and (b), for every initial value: a checksum continues over further bytes; continued over its own two
bytes, high byte first, it is 0x0000; and those two bytes are the only ones for which it is. -/
def Obligations.CrcResidueIsZero : Prop :=
  ∀ (init : Word16) (m : Bytes),
    (∀ b, crc16 init (m ++ b) = b.foldl crcStep (crc16 init m)) ∧
    crc16 init (m ++ [hiByte (crc16 init m), loByte (crc16 init m)]) = 0x0000 ∧
    ∀ h l : Byte, crc16 init (m ++ [h, l]) = 0x0000 ↔ be16 h l = crc16 init m

/-! ### The frame codec -/

/-- FC.ENCODE (R130): its encoding; of a payload of at most 65535 bytes the bytes in the layout of `encode` (R131), the
break byte first when asked for, outside the checksum; of a longer one no bytes and the one event
EV_ERROR(PayloadTooLong) (R132); nothing else changes. The last clause is R130's example. -/
def Obligations.EncodeWritesFrameLayout : Prop :=
  (∀ c q p k, encode (.fcEncode c q p k) = .op 0x20 [.byte c, .byte q, .bytes p, .bit (if k then 1 else 0)]) ∧
  (∀ (cmd seq : Byte) (payload : Bytes) (brk : Bool) (s : State), payload.length ≤ 65535 →
    exec (.fcEncode cmd seq payload brk) s =
      .next { s with
        result := .bytes
          ((if brk then [0x00] else []) ++
            [0x01, cmd, seq, BitVec.ofNat 8 (payload.length % 256), BitVec.ofNat 8 (payload.length / 256)] ++ payload ++
            [hiByte (crc16 0x0000 ([0x01, cmd, seq, BitVec.ofNat 8 (payload.length % 256),
                BitVec.ofNat 8 (payload.length / 256)] ++ payload)),
             loByte (crc16 0x0000 ([0x01, cmd, seq, BitVec.ofNat 8 (payload.length % 256),
                BitVec.ofNat 8 (payload.length / 256)] ++ payload))])
        events := [] }) ∧
  (∀ (cmd seq : Byte) (payload : Bytes) (brk : Bool) (s : State), 65535 < payload.length →
    exec (.fcEncode cmd seq payload brk) s =
      .next { s with result := .none, events := [.error (.payloadTooLong payload.length)] }) ∧
  ∀ s : State, ∃ t, exec (.fcEncode 0x76 0x00 [0x78, 0x56, 0x34, 0x12] false) s = .next t ∧
    t.result = .bytes [0x01, 0x76, 0x00, 0x04, 0x00, 0x78, 0x56, 0x34, 0x12, 0x0D, 0xBF]

/-- FC.DECODE (R135): the result of `decode`, no event, no state change; the rule's two examples. -/
def Obligations.DecodeAnswersWithoutEvent : Prop :=
  (∀ d, encode (.fcDecode d) = .op 0x21 [.bytes d]) ∧
  (∀ (d : Bytes) (s : State),
    exec (.fcDecode d) s = .next { s with result := .decoded (decodeFrame 0x0000 d), events := [] }) ∧
  decodeFrame 0x0000 [0x01, 0x33, 0x00, 0x04, 0x00, 0x00, 0x00, 0x00, 0x00, 0x63, 0x2B] =
    some ⟨0x33, 0x00, 4, [0x00, 0x00, 0x00, 0x00], 0x632B⟩ ∧
  decodeFrame 0x0000 [0x01, 0x33, 0x00, 0x04, 0x00, 0x00, 0x00, 0x00, 0x00, 0x63, 0x2A] = none

/-- The round trip of R140, through the operations: decoding an encoded payload of 0 to 65535 bytes gives the frame
back; and whatever decodes to a frame is what that frame encodes to. -/
def Obligations.CodecRoundTrip : Prop :=
  (∀ (cmd seq : Byte) (payload : Bytes) (s t : State) (b : Bytes), payload.length ≤ 65535 →
    exec (.fcEncode cmd seq payload false) s = .next t → t.result = .bytes b →
    ∃ u f, exec (.fcDecode b) t = .next u ∧ u.result = .decoded (some f) ∧
      f.command = cmd ∧ f.sequence = seq ∧ f.payload = payload ∧ f.length = payload.length) ∧
  (∀ (b : Bytes) (s t : State) (f : Frame),
    exec (.fcDecode b) s = .next t → t.result = .decoded (some f) →
    ∃ u, exec (.fcEncode f.command f.sequence f.payload false) t = .next u ∧ u.result = .bytes b)

/-- R137: `decode` accepts nothing before the start marker; the encoding with the break byte decodes to nil, and to
the frame once that byte is taken off. -/
def Obligations.BreakByteMakesDecodeNil : Prop :=
  (∀ (x : Byte) (rest : Bytes), x ≠ 0x01 → decodeFrame 0x0000 (x :: rest) = none) ∧
  (∀ (c s : Byte) (p : Bytes), decodeFrame 0x0000 (encodeFrame 0x0000 c s p true) = none) ∧
  (∀ (c s : Byte) (p : Bytes), p.length ≤ 65535 →
    ∃ f, decodeFrame 0x0000 ((encodeFrame 0x0000 c s p true).drop 1) = some f ∧
      f.command = c ∧ f.sequence = s ∧ f.payload = p)

/-- The invariants of a frame value (R50) hold of every frame that FC.DECODE, FA.APPEND or WPE.NOTIFY returns. -/
def Obligations.ReturnedFramesAreConsistent : Prop :=
  ∀ (i : Instr) (s t : State), exec i s = .next t →
    ∀ f ∈ resultFrames t.result, f.length = f.payload.length ∧ f.length ≤ 65535 ∧
      f.checksum = crc16 0x0000 ([0x01, f.command, f.sequence, BitVec.ofNat 8 (f.length % 256),
        BitVec.ofNat 8 (f.length / 256)] ++ f.payload)

/-- A single changed byte anywhere in a valid frame is always detected by FC.DECODE (the bound R141 gives). -/
def Obligations.SingleByteCorruptionDetected : Prop :=
  ∀ (b : Bytes) (f : Frame), decodeFrame 0x0000 b = some f →
    ∀ (i : Nat) (v : Byte), i < b.length → b[i]? ≠ some v → decodeFrame 0x0000 (b.set i v) = none

/-! ### The frame assembler -/

/-- FA.APPEND (R150): encoding; the frames found are the result, the buffer is what `extract` leaves, one LOG_CRC_FAIL
per failed candidate in order; nothing else changes; and the rule's example. -/
def Obligations.AppendAnswersExtraction : Prop :=
  (∀ c, encode (.faAppend c) = .op 0x30 [.bytes c]) ∧
  (∀ (chunk : Bytes) (s : State),
    exec (.faAppend chunk) s =
      .next { s with
        buf := (extract 0x0000 (s.buf ++ chunk)).buf
        result := .frames (extract 0x0000 (s.buf ++ chunk)).frames
        events := (extract 0x0000 (s.buf ++ chunk)).fails.map Event.logCrcFail }) ∧
  ∀ s : State, s.buf = [] → ∃ t u,
    exec (.faAppend [0x01, 0x33, 0x00, 0x04, 0x00, 0x00]) s = .next t ∧ t.result = .frames [] ∧
    t.buf = [0x01, 0x33, 0x00, 0x04, 0x00, 0x00] ∧
    exec (.faAppend [0x00, 0x00, 0x00, 0x63, 0x2B]) t = .next u ∧
    u.result = .frames [⟨0x33, 0x00, 4, [0x00, 0x00, 0x00, 0x00], 0x632B⟩] ∧ u.buf = []

/-- `extract` step by step (R152): a buffer shorter than 7 bytes waits; a first byte that is no start marker is
dropped; a candidate that is not all there waits; a valid candidate leaves as a frame; an invalid one is logged and
one byte is dropped. -/
def Obligations.ExtractFollowsBoundaryDetector : Prop :=
  (∀ buf : Bytes, buf.length < 7 → extract 0x0000 buf = ⟨[], [], buf⟩) ∧
  (∀ (x : Byte) (rest : Bytes), 7 ≤ (x :: rest).length → x ≠ 0x01 →
    extract 0x0000 (x :: rest) = extract 0x0000 rest) ∧
  (∀ (c q lo hi : Byte) (rest : Bytes), 2 ≤ rest.length → rest.length < lo.toNat + 256 * hi.toNat + 2 →
    extract 0x0000 (0x01 :: c :: q :: lo :: hi :: rest) = ⟨[], [], 0x01 :: c :: q :: lo :: hi :: rest⟩) ∧
  (∀ (c q lo hi : Byte) (rest : Bytes), lo.toNat + 256 * hi.toNat + 2 ≤ rest.length →
    extract 0x0000 (0x01 :: c :: q :: lo :: hi :: rest) =
      match decodeFrame 0x0000 (0x01 :: c :: q :: lo :: hi :: rest.take (lo.toNat + 256 * hi.toNat + 2)) with
      | some f =>
        ⟨f :: (extract 0x0000 (rest.drop (lo.toNat + 256 * hi.toNat + 2))).frames,
          (extract 0x0000 (rest.drop (lo.toNat + 256 * hi.toNat + 2))).fails,
          (extract 0x0000 (rest.drop (lo.toNat + 256 * hi.toNat + 2))).buf⟩
      | none =>
        ⟨(extract 0x0000 (c :: q :: lo :: hi :: rest)).frames,
          (0x01 :: c :: q :: lo :: hi :: rest.take (lo.toNat + 256 * hi.toNat + 2)) ::
            (extract 0x0000 (c :: q :: lo :: hi :: rest)).fails,
          (extract 0x0000 (c :: q :: lo :: hi :: rest)).buf⟩)

/-- The invariant of BUF (R36) after every FA.APPEND, WPE.NOTIFY and FA.RESET, from every state: (a) fewer than 7
bytes, or (b) a start marker at the head and fewer bytes than its header declares; hence at most 65541 bytes. -/
def Obligations.AssemblerSettlesBuffer : Prop :=
  ∀ (i : Instr) (s t : State),
    ((∃ c, i = .faAppend c) ∨ (∃ c n, i = .wpeNotify c n) ∨ i = .faReset) → exec i s = .next t →
    (t.buf.length < 7 ∨
      (7 ≤ t.buf.length ∧ ∃ c q lo hi rest, t.buf = 0x01 :: c :: q :: lo :: hi :: rest ∧
        t.buf.length < 5 + (lo.toNat + 256 * hi.toNat) + 2)) ∧
    t.buf.length ≤ 65541

/-- Chunk boundaries do not matter (R156): FA.APPEND a and then FA.APPEND b leave the same buffer and yield,
concatenated, the same frames and the same events as FA.APPEND (a ++ b), from every buffer. -/
def Obligations.ChunkBoundariesDoNotMatter : Prop :=
  ∀ (a b : Bytes) (s : State), ∃ t u v,
    exec (.faAppend a) s = .next t ∧ exec (.faAppend b) t = .next u ∧ exec (.faAppend (a ++ b)) s = .next v ∧
    u.buf = v.buf ∧ resultFrames t.result ++ resultFrames u.result = resultFrames v.result ∧
    t.events ++ u.events = v.events

/-- The hardware's byte-serial ingest (R151) is the whole-chunk operation, from every buffer between operations; and
such a buffer has room for the next byte (R37). -/
def Obligations.ByteSerialIngestEqualsWholeChunk : Prop :=
  ∀ (buf chunk : Bytes), Memory.wf buf = true →
    appendByteSerial 0x0000 buf chunk = appendChunk 0x0000 buf chunk ∧ buf.length + 1 ≤ 65542

/-- One encoded frame cut anywhere into two chunks (the document's fragmentation property, R156, R159): from an empty
buffer the first chunk yields nothing and is kept whole, the second yields exactly that frame and empties the
buffer. -/
def Obligations.FragmentedFrameComesOutOnce : Prop :=
  ∀ (f : Frame) (a b : Bytes) (s : State), frameValid 0x0000 f = true → s.buf = [] → Frame.wire f = a ++ b → b ≠ [] →
    ∃ t u, exec (.faAppend a) s = .next t ∧ t.result = .frames [] ∧ t.events = [] ∧ t.buf = a ∧
      exec (.faAppend b) t = .next u ∧ u.result = .frames [f] ∧ u.events = [] ∧ u.buf = []

/-- One noise byte between two frames (R155), the byte not being the start marker: exactly two frames, in order, no
event, an empty buffer. -/
def Obligations.NoiseByteBetweenFramesIsDropped : Prop :=
  ∀ (f g : Frame) (n : Byte) (s : State), frameValid 0x0000 f = true → frameValid 0x0000 g = true → s.buf = [] →
    n ≠ 0x01 → ∃ t, exec (.faAppend (Frame.wire f ++ [n] ++ Frame.wire g)) s = .next t ∧
      t.result = .frames [f, g] ∧ t.events = [] ∧ t.buf = []

/-- What FA.APPEND returns (R159): the byte stream, what was buffered and then the chunk, is the returned frames in
order, each whole, with gaps of dropped bytes between them, and then the bytes still buffered. -/
def Obligations.AppendCutsStreamIntoFrames : Prop :=
  ∀ (chunk : Bytes) (s t : State), exec (.faAppend chunk) s = .next t →
    ∃ gaps last, gaps.length = (resultFrames t.result).length ∧
      s.buf ++ chunk = weave gaps (resultFrames t.result) ++ last ++ t.buf

/-- FA.RESET (R158): encoding, effect and frame, and the rule's example. -/
def Obligations.AssemblerResetEmptiesBuffer : Prop :=
  encode .faReset = .op 0x31 [] ∧
  (∀ s : State, exec .faReset s = .next { s with buf := [], result := .none, events := [] }) ∧
  (∀ s : State, s.buf = [0x01, 0x33, 0x00, 0x04] → ∃ t u,
    exec .faReset s = .next t ∧ t.buf = [] ∧
    exec (.faAppend [0x00, 0x00, 0x00, 0x00, 0x00, 0x63, 0x2B]) t = .next u ∧ u.result = .frames [] ∧
    u.buf = [0x00, 0x00, 0x00, 0x00, 0x63, 0x2B])

/-- WPE.NOTIFY is the composite of R160: it completes; its state, result and events are those of FA.APPEND followed
by, for each returned frame in order, an arrival event and CS.RECV. -/
def Obligations.NotifyIsAppendThenReceive : Prop :=
  (∀ c n, encode (.wpeNotify c n) = .op 0x01 [.bytes c, .time n]) ∧
  ∀ (chunk : Bytes) (now : Time) (s : State), ∃ t,
    exec (.faAppend chunk) s = .next t ∧
    exec (.wpeNotify chunk now) s =
      .next { (receiveEach now (resultFrames t.result) t).1 with
        result := t.result
        events := t.events ++ (receiveEach now (resultFrames t.result) t).2 }

/-! ### Sending -/

/-- CS.SEND with a write channel (R170, R171): the frame carries the sequence number held before the increment, goes
out as TX and LOG_TX, and its expectation is appended, the oldest leaving a full store; nothing else changes. -/
def Obligations.SendWritesFrame : Prop :=
  ∀ (c : Command) (payload : Bytes) (s : State), payload.length ≤ 65535 → s.writeAvail = true →
    exec (.csSend (operandCode c) payload) s =
      .next { s with
        seq := s.seq + 1
        expect := (if s.expect.length = 8 then s.expect.drop 1 else s.expect) ++
          [⟨c, Config.wpe.respCode c, s.seq⟩]
        result := .none
        events :=
          [.tx (encodeFrame 0x0000 (Config.wpe.cmdCode c) s.seq payload s.brkEn),
           .logTx (encodeFrame 0x0000 (Config.wpe.cmdCode c) s.seq payload s.brkEn)] }

/-- CS.SEND without a write channel and with room in the queue (R173): the frame is encoded, takes its number and its
expectation, and waits at the tail of the queue; no event; `fsm` does not matter (R174). -/
def Obligations.SendDefersWithoutChannel : Prop :=
  ∀ (c : Command) (payload : Bytes) (s : State), payload.length ≤ 65535 → s.writeAvail = false →
    s.defer.length ≠ 8 →
    exec (.csSend (operandCode c) payload) s =
      .next { s with
        seq := s.seq + 1
        expect := (if s.expect.length = 8 then s.expect.drop 1 else s.expect) ++
          [⟨c, Config.wpe.respCode c, s.seq⟩]
        defer := s.defer ++ [encodeFrame 0x0000 (Config.wpe.cmdCode c) s.seq payload s.brkEn]
        result := .none
        events := [] }

/-- CS.SEND refused (R132, R171, R173): a payload that is too long, before the queue is looked at; a full queue without
a channel. Each raises its one error and changes nothing. -/
def Obligations.SendRefusalsChangeNothing : Prop :=
  (∀ (c : Command) (payload : Bytes) (s : State), 65535 < payload.length →
    exec (.csSend (operandCode c) payload) s =
      .next { s with result := .none, events := [.error (.payloadTooLong payload.length)] }) ∧
  (∀ (c : Command) (payload : Bytes) (s : State), payload.length ≤ 65535 → s.writeAvail = false →
    s.defer.length = 8 →
    exec (.csSend (operandCode c) payload) s =
      .next { s with result := .none, events := [.error (.deferOverflow c)] })

/-- CS.UNLOCK (R196): encoding; with eight decimal digits it does what CS.SEND Passcode does with their four bytes, so
with a write channel the passcode command goes out; any other text raises the validation error and changes nothing. -/
def Obligations.UnlockValidatesThenSends : Prop :=
  (∀ t, encode (.csUnlock t) = .op 0x47 [.text t]) ∧
  (∀ (text : Text) (p : Bytes) (s : State), passenc Config.wpe text = some p →
    exec (.csUnlock text) s = exec (.csSend (operandCode .passcode) p) s) ∧
  (∀ (text : Text) (p : Bytes) (s : State), passenc Config.wpe text = some p → s.writeAvail = true →
    exec (.csUnlock text) s =
      .next { s with
        seq := s.seq + 1
        expect := (if s.expect.length = 8 then s.expect.drop 1 else s.expect) ++
          [⟨.passcode, Config.wpe.respCode .passcode, s.seq⟩]
        result := .none
        events :=
          [.tx (encodeFrame 0x0000 (Config.wpe.cmdCode .passcode) s.seq p s.brkEn),
           .logTx (encodeFrame 0x0000 (Config.wpe.cmdCode .passcode) s.seq p s.brkEn)] }) ∧
  (∀ (text : Text) (s : State), passenc Config.wpe text = none →
    exec (.csUnlock text) s = .next { s with result := .none, events := [.error .validationPasscodeFormat] })

/-- CS.PASSENC (R93, R195): encoding; exactly eight numeric characters give the four bytes of their digits in order, 16
times the first plus the second; every other text gives the validation error and no bytes; no state changes; the
document's two examples. -/
def Obligations.PassencTakesExactlyEightDigits : Prop :=
  (∀ t, encode (.csPassenc t) = .op 0x46 [.text t]) ∧
  (∀ (d0 d1 d2 d3 d4 d5 d6 d7 : Fin 10) (s : State),
    exec (.csPassenc ([d0, d1, d2, d3, d4, d5, d6, d7].map (fun d => Char.ofNat (0x30 + d.val)))) s =
      .next { s with
        result := .bytes [BitVec.ofNat 8 (16 * d0.val + d1.val), BitVec.ofNat 8 (16 * d2.val + d3.val),
          BitVec.ofNat 8 (16 * d4.val + d5.val), BitVec.ofNat 8 (16 * d6.val + d7.val)]
        events := [] }) ∧
  (∀ (text : Text) (s : State),
    text.length ≠ 8 ∨ (∃ ch ∈ text, ch.toNat < 0x30 ∨ 0x39 < ch.toNat) →
    exec (.csPassenc text) s = .next { s with result := .none, events := [.error .validationPasscodeFormat] }) ∧
  (∀ s : State, exec (.csPassenc ['7', '4', '9', '7', '6', '1', '6', '7']) s =
    .next { s with result := .bytes [0x74, 0x97, 0x61, 0x67], events := [] }) ∧
  (∀ s : State, exec (.csPassenc ['1', '2']) s =
    .next { s with result := .none, events := [.error .validationPasscodeFormat] })

/-- Two texts that CS.PASSENC accepts with the same bytes are the same text: no digit is lost (from R93). -/
def Obligations.PasscodeBytesDetermineText : Prop :=
  ∀ (u v : Text) (p : Bytes), passenc Config.wpe u = some p → passenc Config.wpe v = some p → u = v

/-! ### The connection -/

/-- CS.CONNECT (R201): in Idle and Disconnected it latches the identity and the break-byte option; elsewhere it raises
IllegalState and changes nothing. -/
def Obligations.ConnectLatchesDevice : Prop :=
  (∀ d k, encode (.csConnect d k) = .op 0x42 [.ident d, .bit (if k then 1 else 0)]) ∧
  ∀ (id : DeviceId) (brk : Bool) (s : State),
    exec (.csConnect id brk) s =
      .next (if s.fsm = .idle ∨ s.fsm = .disconnected then
          { s with fsm := .awaitingCharacteristics, deviceId := some id, brkEn := brk, result := .none, events := [] }
        else { s with result := .none, events := [.error (.illegalState .csConnect s.fsm)] })

/-- CS.CHANNEL (R202, R203): IllegalState in Idle and Disconnected; else the bit is written, a 1 takes
AwaitingCharacteristics to Ready and writes out the queue, oldest first, unchanged, and empties it. -/
def Obligations.ChannelHandsOverAndFlushes : Prop :=
  (∀ w, encode (.csChannel w) = .op 0x43 [.bit (if w then 1 else 0)]) ∧
  ∀ (w : Bool) (s : State),
    exec (.csChannel w) s =
      .next (if s.fsm = .idle ∨ s.fsm = .disconnected then
          { s with result := .none, events := [.error (.illegalState .csChannel s.fsm)] }
        else if w then
          { s with
            writeAvail := true
            fsm := if s.fsm = .awaitingCharacteristics then .ready else s.fsm
            defer := []
            result := .none
            events := (s.defer.map (fun b => [Event.tx b, Event.logTx b])).flatten }
        else { s with writeAvail := false, result := .none, events := [] })

/-- CS.POLLSTATE (R204): it moves Ready, Polling and Streaming, and is ignored without an event elsewhere. -/
def Obligations.PollstateMovesLiveSession : Prop :=
  encode (.csPollstate .polling) = .op 0x44 [.pstate 0] ∧ encode (.csPollstate .streaming) = .op 0x44 [.pstate 1] ∧
  ∀ (p : PState) (s : State),
    exec (.csPollstate p) s =
      .next { s with
        fsm :=
          if s.fsm = .ready ∨ s.fsm = .polling ∨ s.fsm = .streaming then
            (if p = .polling then .polling else .streaming)
          else s.fsm
        result := .none
        events := [] }

/-- CS.DISCONNECT (R208): everything of the connection is cleared in every state, no event; `crc` and the host's side
are not touched. -/
def Obligations.DisconnectClearsConnection : Prop :=
  encode .csDisconnect = .op 0x45 [] ∧
  ∀ s : State,
    exec .csDisconnect s =
      .next
        { crc := s.crc, buf := [], seq := 0x00, fsm := .disconnected, writeAvail := false, brkEn := false,
          deviceId := none, unlocked := false, autoSpent := false, expect := [], defer := [],
          snap := ⟨none, none, none, none, none⟩, port := s.port, lookup := s.lookup, result := .none, events := [] }

/-- WPE.RESET (R290): encoding; every state element at its reset value, no event, no result, in every state; and
power-on has exactly its effect: it leaves the reset state as it is. -/
def Obligations.ResetRestoresEveryElement : Prop :=
  encode .wpeReset = .op 0x00 [] ∧
  (∀ s : State,
    exec .wpeReset s =
      .next
        { crc := 0x0000, buf := [], seq := 0x00, fsm := .idle, writeAvail := false, brkEn := false,
          deviceId := none, unlocked := false, autoSpent := false, expect := [], defer := [],
          snap := ⟨none, none, none, none, none⟩, port := s.port, lookup := s.lookup, result := .none, events := [] }) ∧
  exec .wpeReset State.reset = .next State.reset

/-! ### Receiving -/

/-- The correlation of R176, through CS.RECV of a frame: the oldest expectation with the frame's command is taken out,
older and newer ones stay in their order, and the first event reports it; without one the store is unchanged and the
frame is unsolicited. -/
def Obligations.ReceiveCorrelatesOldestExpectation : Prop :=
  (∀ (f : Frame) (s : State) (older newer : List Expectation) (e : Expectation),
    s.expect = older ++ e :: newer → e.resp = f.command → (∀ x ∈ older, x.resp ≠ f.command) →
    correlate f s =
      (.solicited e.cls e.seq (decide (f.sequence = e.seq)), { s with expect := older ++ newer })) ∧
  (∀ (f : Frame) (s : State), (∀ x ∈ s.expect, x.resp ≠ f.command) → correlate f s = (.unsolicited, s)) ∧
  (∀ (f : Frame) (now : Time) (s : State), ∃ t rest,
    exec (.csRecv f now) s = .next t ∧ t.events = .logRx f (correlate f s).1 :: rest)

/-- A frame whose command is no class's response code (R190), in a state that meets the invariant: it is logged as
unsolicited and as unknown, and nothing changes. -/
def Obligations.UnknownCommandIsLoggedOnly : Prop :=
  ∀ (f : Frame) (now : Time) (s : State), Inv s → (∀ c, Config.wpe.respCode c ≠ f.command) →
    exec (.csRecv f now) s =
      .next { s with result := .none, events := [.logRx f .unsolicited, .logUnknownCmd f] }

/-- A current-value response with Ack (R180): the decoded reading goes out and the snapshot's two fields are written
and reported; a payload that does not decode is logged and changes nothing further. -/
def Obligations.CurrentValueAckEmitsReading : Prop :=
  ∀ (f : Frame) (rest : Bytes) (now : Time) (s : State),
    f.command = Config.wpe.respCode .currentValue → f.payload = 0x00 :: rest →
    exec (.csRecv f now) s =
      .next (match Config.wpe.decodeCurrent f.payload with
        | some r =>
          { (correlate f s).2 with
            snap := { s.snap with isRecording := some r.isRecording, securityOn := some r.securityOn }
            result := .none
            events :=
              [.logRx f (correlate f s).1,
               .reading ⟨now, r.channel, r.value, r.errorFlag⟩,
               .snapshot ⟨none, none, some r.isRecording, some r.securityOn, none⟩] }
        | none =>
          { (correlate f s).2 with
            result := .none
            events := [.logRx f (correlate f s).1, .logDecodeFail f] })

/-- A current-value response with any status that is neither Ack nor the security-locked refusal (R182, R183): the
refusal is raised, the others are logged; no state changes but the correlation, nothing is sent. That the matched
expectation leaves the store here too is the model's reading of rules that differ (log entry 25). -/
def Obligations.CurrentValueOtherStatus : Prop :=
  ∀ (f : Frame) (now : Time) (s : State), f.command = Config.wpe.respCode .currentValue →
    statusOf Config.wpe f.payload ≠ .ack →
    statusOf Config.wpe f.payload ≠ .refuse Config.wpe.reasonLocked →
    exec (.csRecv f now) s =
      .next { (correlate f s).2 with
        result := .none
        events :=
          [.logRx f (correlate f s).1,
           match statusOf Config.wpe f.payload with
           | .refuse r => .error (.refused .currentValue r)
           | st => .logUnhandledStatus .currentValue st] }

/-- The security-locked refusal (R181, R205) where no automatic send is due, the bit being spent or no device being
known: the link is marked locked, a live session becomes SecurityLocked, EV_SECURITY_NEEDED goes out, nothing is
sent. -/
def Obligations.SecurityRefusalLocksSession : Prop :=
  ∀ (f : Frame) (rest : Bytes) (now : Time) (s : State),
    f.command = Config.wpe.respCode .currentValue → f.payload = Config.wpe.reasonLocked :: rest →
    s.autoSpent = true ∨ s.deviceId = none →
    exec (.csRecv f now) s =
      .next { (correlate f s).2 with
        unlocked := false
        fsm := if s.fsm = .ready ∨ s.fsm = .polling ∨ s.fsm = .streaming then .securityLocked else s.fsm
        result := .none
        events := [.logRx f (correlate f s).1, .securityNeeded] }

/-- The self-healing unlock path (R181): with a device known, the bit not spent, a write channel, and the host
answering eight digits for that device, the refusal also sends the passcode command once and spends the bit. How the
host's answers are held, `askPasscode` and `lookup`, is the model's choice (log entry 12). -/
def Obligations.SecurityRefusalSendsKnownPasscode : Prop :=
  ∀ (f : Frame) (rest : Bytes) (now : Time) (s : State) (id : DeviceId) (text : Text) (p : Bytes),
    f.command = Config.wpe.respCode .currentValue → f.payload = Config.wpe.reasonLocked :: rest →
    s.autoSpent = false → s.deviceId = some id → s.writeAvail = true →
    (askPasscode id s).1 = some text → passenc Config.wpe text = some p →
    exec (.csRecv f now) s =
      .next { (correlate f s).2 with
        unlocked := false
        fsm := if s.fsm = .ready ∨ s.fsm = .polling ∨ s.fsm = .streaming then .securityLocked else s.fsm
        autoSpent := true
        seq := s.seq + 1
        expect :=
          (if (correlate f s).2.expect.length = 8 then (correlate f s).2.expect.drop 1
            else (correlate f s).2.expect) ++ [⟨.passcode, Config.wpe.respCode .passcode, s.seq⟩]
        lookup := (askPasscode id s).2.lookup
        result := .none
        events :=
          [.logRx f (correlate f s).1, .securityNeeded,
           .tx (encodeFrame 0x0000 (Config.wpe.cmdCode .passcode) s.seq p s.brkEn),
           .logTx (encodeFrame 0x0000 (Config.wpe.cmdCode .passcode) s.seq p s.brkEn)] }

/-- The unlock path (R181) where nothing can go out at once: the host knows no passcode; it answers a malformed one; the
frame is refused on a full queue, the bit staying clear; or it is deferred and the bit is spent. The locking and
EV_SECURITY_NEEDED are the same in all four. How the host's answers are held is the model's choice (log entry 12), said
by the last three clauses; that the matched expectation leaves the store where an error is raised is its reading of rules
that differ (log entry 25). -/
def Obligations.SecurityRefusalWithoutTransmission : Prop :=
  (∀ (f : Frame) (rest : Bytes) (now : Time) (s : State) (id : DeviceId),
    f.command = Config.wpe.respCode .currentValue → f.payload = Config.wpe.reasonLocked :: rest →
    s.autoSpent = false → s.deviceId = some id →
    let locked : State := { (correlate f s).2 with
      unlocked := false
      fsm := if s.fsm = .ready ∨ s.fsm = .polling ∨ s.fsm = .streaming then .securityLocked else s.fsm
      lookup := (askPasscode id s).2.lookup
      result := .none
      events := [.logRx f (correlate f s).1, .securityNeeded] }
    ((askPasscode id s).1 = none → exec (.csRecv f now) s = .next locked) ∧
    (∀ text, (askPasscode id s).1 = some text → passenc Config.wpe text = none →
      exec (.csRecv f now) s =
        .next { locked with events := locked.events ++ [.error .validationPasscodeFormat] }) ∧
    (∀ text p, (askPasscode id s).1 = some text → passenc Config.wpe text = some p → s.writeAvail = false →
      exec (.csRecv f now) s =
        .next (if s.defer.length = 8 then { locked with events := locked.events ++ [.error (.deferOverflow .passcode)] }
          else
            { locked with
              autoSpent := true
              seq := s.seq + 1
              expect := (if locked.expect.length = 8 then locked.expect.drop 1 else locked.expect) ++
                [⟨.passcode, Config.wpe.respCode .passcode, s.seq⟩]
              defer := s.defer ++ [encodeFrame 0x0000 (Config.wpe.cmdCode .passcode) s.seq p s.brkEn] }))) ∧
  (∀ (id : DeviceId) (s : State), s.lookup = [] → askPasscode id s = (none, s)) ∧
  (∀ (id : DeviceId) (s : State) (t : PasscodeTable), s.lookup = [t] → askPasscode id s = (List.lookup id t, s)) ∧
  (∀ (id : DeviceId) (s : State) (t u : PasscodeTable) (later : List PasscodeTable), s.lookup = t :: u :: later →
    askPasscode id s = (List.lookup id t, { s with lookup := u :: later }))

/-- A recording-settings response (R184, R185): with Ack the decoded fields are written and reported, or the failure to
decode is logged; any other status becomes the last error and is reported; `fsm` does not change. -/
def Obligations.SettingsResponseUpdatesSnapshot : Prop :=
  ∀ (f : Frame) (now : Time) (s : State), f.command = Config.wpe.respCode .recordingSettings →
    exec (.csRecv f now) s =
      .next (if statusOf Config.wpe f.payload = .ack then
          match Config.wpe.decodeSettings f.payload with
          | some r =>
            { (correlate f s).2 with
              snap := { s.snap with
                intervalSeconds := some r.intervalSeconds, mode := some r.mode, securityOn := some r.securityOn }
              result := .none
              events :=
                [.logRx f (correlate f s).1,
                 .snapshot ⟨some r.intervalSeconds, some r.mode, none, some r.securityOn, none⟩] }
          | none =>
            { (correlate f s).2 with
              result := .none
              events := [.logRx f (correlate f s).1, .logDecodeFail f] }
        else
          { (correlate f s).2 with
            snap := { s.snap with lastError := some (statusOf Config.wpe f.payload) }
            result := .none
            events :=
              [.logRx f (correlate f s).1,
               .snapshot ⟨none, none, none, none, some (statusOf Config.wpe f.payload)⟩] })

/-- A passcode response (R186, R187, R188): Ack unlocks, clears the bit and takes SecurityLocked to Polling; a refusal
spends the bit and is surfaced, nothing is sent; any other status is logged. That the matched expectation leaves the
store in every case is the model's reading of rules that differ (log entry 25). -/
def Obligations.PasscodeResponseUnlocksOrRejects : Prop :=
  ∀ (f : Frame) (now : Time) (s : State), f.command = Config.wpe.respCode .passcode →
    exec (.csRecv f now) s =
      .next (match statusOf Config.wpe f.payload with
        | .ack =>
          { (correlate f s).2 with
            unlocked := true
            autoSpent := false
            fsm := if s.fsm = .securityLocked then .polling else s.fsm
            result := .none
            events := [.logRx f (correlate f s).1, .unlocked, .pollStart] }
        | .refuse r =>
          { (correlate f s).2 with
            autoSpent := true
            result := .none
            events := [.logRx f (correlate f s).1, .error (.passcodeRejected r)] }
        | st =>
          { (correlate f s).2 with
            result := .none
            events := [.logRx f (correlate f s).1, .logUnhandledStatus .passcode st] })

/-- A settings-write, start or stop response (R189). (a) With Ack the recording settings are requested again inside the
same operation, as any send: out after LOG_RX with a channel, deferred without one, refused on a full queue. (b) A
refusal is surfaced, the security-locked one like any other. (c) Any other status is logged. The re-request's empty
payload is the spec's choice (its decision D14). That the matched expectation leaves the store in (b) and (c) too is the
model's reading of rules that differ (log entry 25). -/
def Obligations.WriteResponseRequestsOrSurfaces : Prop :=
  ∀ (c : Command) (f : Frame) (now : Time) (s : State), c = .settingsWrite ∨ c = .start ∨ c = .stop →
    f.command = Config.wpe.respCode c →
    exec (.csRecv f now) s =
      .next (match statusOf Config.wpe f.payload with
        | .ack =>
          if s.writeAvail = false ∧ s.defer.length = 8 then
            { (correlate f s).2 with
              result := .none
              events := [.logRx f (correlate f s).1, .error (.deferOverflow .recordingSettings)] }
          else
            { (correlate f s).2 with
              seq := s.seq + 1
              expect :=
                (if (correlate f s).2.expect.length = 8 then (correlate f s).2.expect.drop 1
                  else (correlate f s).2.expect) ++
                  [⟨.recordingSettings, Config.wpe.respCode .recordingSettings, s.seq⟩]
              defer :=
                if s.writeAvail then s.defer
                else s.defer ++ [encodeFrame 0x0000 (Config.wpe.cmdCode .recordingSettings) s.seq [] s.brkEn]
              result := .none
              events :=
                .logRx f (correlate f s).1 ::
                  (if s.writeAvail then
                    [.tx (encodeFrame 0x0000 (Config.wpe.cmdCode .recordingSettings) s.seq [] s.brkEn),
                     .logTx (encodeFrame 0x0000 (Config.wpe.cmdCode .recordingSettings) s.seq [] s.brkEn)]
                  else []) }
        | .refuse r =>
          { (correlate f s).2 with
            result := .none
            events := [.logRx f (correlate f s).1, .error (.refused c r)] }
        | st =>
          { (correlate f s).2 with
            result := .none
            events := [.logRx f (correlate f s).1, .logUnhandledStatus c st] })

/-- The status byte (R90) under the constraints of R9: missing without a payload; 0x00 is Ack, STATUS_BUSY is Busy, a
member of REFUSE_CODES is its refusal, any other byte is Unknown of itself. -/
def Obligations.StatusByteIsDecoded : Prop :=
  ∀ P : Params, P.Valid →
    statusOf P [] = .missing ∧
    ∀ (v : Byte) (rest : Bytes),
      (v = 0x00 → statusOf P (v :: rest) = .ack) ∧
      (v = P.statusBusy → statusOf P (v :: rest) = .busy) ∧
      (P.refuses v = true → statusOf P (v :: rest) = .refuse v) ∧
      (v ≠ 0x00 → v ≠ P.statusBusy → P.refuses v = false → statusOf P (v :: rest) = .unknown v)

/-! ### The whole machine -/

/-- Everything `fsm` does (R209): every operation but WPE.NOTIFY moves it as the table says; WPE.NOTIFY moves it with
its frames, one after another. -/
def Obligations.FsmFollowsTransitionTable : Prop :=
  (∀ (i : Instr) (s t : State), (∀ chunk now, i ≠ .wpeNotify chunk now) → exec i s = .next t →
    t.fsm = fsmTable i s.fsm) ∧
  (∀ (chunk : Bytes) (now : Time) (s t : State), exec (.wpeNotify chunk now) s = .next t →
    t.fsm = (resultFrames t.result).foldl (fun x f => fsmOnFrame f x) s.fsm)

/-- The exits of SecurityLocked (R206, and WPE.RESET by R209): a passcode response with Ack, CS.DISCONNECT, WPE.RESET;
no other operation leaves it. -/
def Obligations.SecurityLockIsLeftOnlyByAcceptance : Prop :=
  ∀ (i : Instr) (s t : State), s.fsm = .securityLocked → exec i s = .next t → t.fsm ≠ .securityLocked →
    i = .wpeReset ∨ i = .csDisconnect ∨ (∃ f now, i = .csRecv f now ∧ isPasscodeAck f = true) ∨
    (∃ chunk now, i = .wpeNotify chunk now ∧ ∃ f ∈ resultFrames t.result, isPasscodeAck f = true)

/-- `crc` belongs to the checksum unit (R34, R312): no operation but CRC.INIT, CRC.UPDATE, CRC.BLOCK and WPE.RESET
changes it. -/
def Obligations.OnlyChecksumOperationsTouchCrc : Prop :=
  ∀ (i : Instr) (s t : State), exec i s = .next t →
    i ≠ .crcInit → (∀ b, i ≠ .crcUpdate b) → (∀ d, i ≠ .crcBlock d) → i ≠ .wpeReset → t.crc = s.crc

/-- BUF belongs to the assembler (R30, R60): no operation but FA.APPEND, FA.RESET, WPE.NOTIFY, CS.DISCONNECT and
WPE.RESET changes a byte of it; and no operation changes what the host presents. -/
def Obligations.OnlyAssemblerOperationsTouchBuffer : Prop :=
  ∀ (i : Instr) (s t : State), exec i s = .next t →
    t.port = s.port ∧
    ((∀ c, i ≠ .faAppend c) → i ≠ .faReset → (∀ c n, i ≠ .wpeNotify c n) → i ≠ .csDisconnect → i ≠ .wpeReset →
      ∀ a : Nat, t.buf[a]? = s.buf[a]?)

/-- An operation other than CS.RECV and WPE.NOTIFY that raises an error raises that one error alone and leaves all
state as it was (R260, R268). -/
def Obligations.RaisedErrorLeavesState : Prop :=
  ∀ (i : Instr) (s t : State) (k : ErrorKind), (∀ f n, i ≠ .csRecv f n) → (∀ c n, i ≠ .wpeNotify c n) →
    exec i s = .next t → .error k ∈ t.events → t = { s with result := .none, events := [.error k] }

/-- While the automatic send is spent, no current-value response makes WPE send (R46, R181): nothing is written or
deferred, no sequence number is taken, and the bit stays. -/
def Obligations.SpentPasscodeIsNotSentAgain : Prop :=
  ∀ (f : Frame) (now : Time) (s : State), s.autoSpent = true → f.command = Config.wpe.respCode .currentValue →
    ∃ t, exec (.csRecv f now) s = .next t ∧ txBytes t.events = [] ∧ t.defer = s.defer ∧ t.seq = s.seq ∧
      t.autoSpent = true

/-- Outbound order (R71): whatever an operation other than CS.DISCONNECT and WPE.RESET writes out, followed by what it
leaves deferred, is what was deferred before followed by the frames it encoded; and all of these carry consecutive
sequence numbers, modulo 256, up to the counter. -/
def Obligations.OutboundFramesKeepSequenceOrder : Prop :=
  ∀ (i : Instr) (s t : State), Inv s → i ≠ .csDisconnect → i ≠ .wpeReset → exec i s = .next t →
    SentFrom (s.seq - BitVec.ofNat 8 s.defer.length) (txBytes t.events ++ t.defer) ∧
    ∃ new : List Bytes, txBytes t.events ++ t.defer = s.defer ++ new ∧ t.seq = s.seq + BitVec.ofNat 8 new.length

/-- The invariant holds of every state a step reaches from a state in which it holds. -/
def Obligations.StepKeepsInvariant : Prop :=
  ∀ s t : State, Inv s → step s = .next t → Inv t

/-- The invariant holds right after reset. -/
def Obligations.ResetMeetsInvariant : Prop := Inv State.reset

/-- A step performs the presented operation (R14, R15): it leaves the port, and if it decodes to `i`, the step is
`exec i` of what is left; a presentation the decoder rejects is refused by name; with nothing presented the state is
held (the last two are the model's choices, log entries 2 and 3). -/
def Obligations.StepRunsPresentedOperation : Prop :=
  (∀ (s : State) (p : Presentation) (later : List Presentation) (i : Instr), s.port = p :: later → decode p = .ok i →
    step s = exec i { s with port := later }) ∧
  (∀ (s : State) (p : Presentation) (later : List Presentation) (e : DecodeError), s.port = p :: later →
    decode p = .error e → step s = .refused (.malformedPresentation e)) ∧
  (∀ s : State, s.port = [] → step s = .next s)

/-- Decoding the encoding of any well-formed instruction gives the instruction back: no bit of an operand, of a wire
frame or of a passcode's nibbles is dropped. -/
def Obligations.DecodeOfEncodeIsInstruction : Prop :=
  ∀ i : Instr, i.wf = true → decode (encode i) = .ok i

/-- Some words written out from the tables of R95, R80, R93 and R96 decode to the instructions they stand for. -/
def Obligations.WrittenWordsDecode : Prop :=
  decode (.op 0x11 [.byte 0xA5]) = .ok (.crcUpdate 0xA5) ∧
  decode (.op 0x20 [.byte 0x33, .byte 0x05, .bytes [0x10], .bit 1]) = .ok (.fcEncode 0x33 0x05 [0x10] true) ∧
  decode (.op 0x40 [.cls 5, .bytes []]) = .ok (.csSend 5 []) ∧
  decode (.op 0x44 [.pstate 0]) = .ok (.csPollstate .polling) ∧
  decode (.op 0x02 []) = .ok (.illegalOp 0x02) ∧
  decode (.wireFrame [0x01, 0x76, 0x00, 0x04, 0x00, 0x78, 0x56, 0x34, 0x12, 0x0D, 0xBF]) =
    .ok (.frame 0x76 0x00 [0x78, 0x56, 0x34, 0x12] 0x0DBF) ∧
  decode (.passcodePayload [0x74, 0x97, 0x61, 0x67]) = .ok (.passcode 7 4 9 7 6 1 6 7) ∧
  decodeTableWord 8 0x45 = some .csDisconnect

/-- An operation code outside the table (R96): the decoder answers the illegal operation whatever operands stand
beside it, and performing it changes no state, answers nothing and raises IllegalOp alone; a class operand of 6 or 7
raises IllegalOperand in the same way. -/
def Obligations.IllegalOpRaisesErrorOnly : Prop :=
  (∀ (op : Byte) (operands : List Operand), op ∉ [0x00, 0x01, 0x10, 0x11, 0x12, 0x13, 0x20, 0x21, 0x30, 0x31, 0x40,
      0x41, 0x42, 0x43, 0x44, 0x45, 0x46, 0x47] → decode (.op op operands) = .ok (.illegalOp op)) ∧
  (∀ (op : Byte) (s : State),
    exec (.illegalOp op) s = .next { s with result := .none, events := [.error (.illegalOp op)] }) ∧
  (∀ (v : BitVec 3) (payload : Bytes) (s : State), v = 6 ∨ v = 7 →
    exec (.csSend v payload) s = .next { s with result := .none, events := [.error (.illegalOperand v)] })

/-- The four rows of the table that are formats answer the value of the spec's function for the format and change no
state element (R80 with R136, R90, R91, R93; that they can be presented is the model's choice, log entry 4). -/
def Obligations.FormatRowsAnswerTheirValue : Prop :=
  (∀ (cmd seq : Byte) (payload : Bytes) (crc : Word16) (s : State), payload.length ≤ 65535 →
    exec (.frame cmd seq payload crc) s =
      .next { s with
        result := .decoded
          (if crc = crc16 0x0000 ([0x01, cmd, seq, BitVec.ofNat 8 (payload.length % 256),
              BitVec.ofNat 8 (payload.length / 256)] ++ payload) then
            some ⟨cmd, seq, payload.length, payload, crc⟩ else none)
        events := [] }) ∧
  (∀ (payload : Bytes) (s : State),
    exec (.status payload) s = .next { s with result := .status (statusOf Config.wpe payload), events := [] }) ∧
  (∀ (a b c d e f g h : BitVec 4) (s : State), (∀ x ∈ [a, b, c, d, e, f, g, h], x.toNat ≤ 9) →
    exec (.passcode a b c d e f g h) s =
      .next { s with result := .bytes [a ++ b, c ++ d, e ++ f, g ++ h], events := [] }) ∧
  (∀ (c : Command) (s : State),
    exec (.commandClass (Config.wpe.respCode c)) s = .next { s with result := .cls (some c), events := [] }) ∧
  (∀ (b : Byte) (s : State), (∀ c, Config.wpe.respCode c ≠ b) →
    exec (.commandClass b) s = .next { s with result := .cls none, events := [] })

/-! ### The adjacent components -/

/-- The polling controller, outside the block, on a tick and on a start request (R233 to R236): the two counters; the
stop decision; the resume decision; no start on a tick inside the streaming window; a start without a write channel,
inside the window too, waits for one and is honoured when it comes; with one, outside the window, it starts at once. Three
clauses rest on the model's choices (log entry 22): the stop and the resume clause read "reaches 2" as 2 or more; the
resume clause takes "after the streaming window expires" to hold where no window was ever open; and the clause on a start
request without a channel holds while the window is open too, so that polling then starts when the channel comes although
the window is still open, where R234 considers no restart and N26 leaves start requests open. -/
def Obligations.PollingControllerDecides : Prop :=
  ∀ m : PollingMetrics,
    ((pollStep .tick m).1.notifyCount = m.notifyCount ∧ (pollStep .tick m).1.countAtTick = m.notifyCount ∧
      (pollStep .tick m).1.fastTicks = (if 3 ≤ m.notifyCount - m.countAtTick then m.fastTicks + 1 else 0) ∧
      (pollStep .tick m).1.slowTicks = (if m.notifyCount - m.countAtTick < 2 then m.slowTicks + 1 else 0)) ∧
    (3 ≤ m.notifyCount - m.countAtTick → 1 ≤ m.fastTicks → m.running = true →
      (pollStep .tick m).2 = [.stopPolling, .startTimer .window] ∧ (pollStep .tick m).1.running = false ∧
        (pollStep .tick m).1.windowOpen = true) ∧
    (m.notifyCount - m.countAtTick < 2 → 1 ≤ m.slowTicks → m.running = false → m.windowOpen = false →
      (pollStep .tick m).2 = (if m.channel then [.startPolling] else []) ∧
        (pollStep .tick m).1.running = m.channel) ∧
    (m.windowOpen = true → .startPolling ∉ (pollStep .tick m).2) ∧
    (m.running = false → m.channel = false →
      (pollStep .startRequest m).2 = [] ∧ (pollStep .startRequest m).1.startPending = true ∧
        (pollRun [.startRequest, .channel true] m).2 = [.startPolling] ∧
        (pollRun [.startRequest, .channel true] m).1.running = true) ∧
    (m.windowOpen = false → m.running = false → m.channel = true → (pollStep .startRequest m).2 = [.startPolling])

/-- The packet parser, outside the block (R246 to R250): the binary dialect's acceptance and value, the ASCII dialect's
documented examples, and too few printable characters. That `capturedAt` is an operand and that a binary reading carries
no error flag are the model's choices (log entry 23). -/
def Obligations.PacketParserReadsDialects : Prop :=
  (∀ (now : Time) (sub lo hi p0 p1 : Byte) (rest : Bytes), sub = 0x00 ∨ sub = 0x80 → 4 ≤ rest.length →
    lo.toNat + 256 * hi.toNat ≤ rest.length →
    parsePacket now (0x01 :: Config.parserCommandCode :: sub :: lo :: hi :: p0 :: p1 :: rest) =
      some ⟨now, Config.parserChannel, celsiusOfTenths (tenthsOfInt (BitVec.toInt (p1 ++ p0) - 1000)), none⟩) ∧
  tenthsOfInt (BitVec.toInt ((0x04 : Byte) ++ (0xE2 : Byte)) - 1000) = ⟨false, 250⟩ ∧
  (∀ now : Time, ∃ r, parsePacket now
      ([0x00, 0xFF] ++ ['0', '0', '1', '+', '0', '0', '2', '4', '3'].map (fun c => BitVec.ofNat 8 c.toNat) ++ [0x00]) =
      some r ∧ r.channel = some 1 ∧ r.valueCelsius = celsiusOfTenths ⟨false, 243⟩) ∧
  (∀ now : Time, parsePacket now
      (['0', '9', '9', '-', '0', '0', '0', '0', '0', 'B', '-', 'O', 'U', 'T'].map (fun c => BitVec.ofNat 8 c.toNat)) =
      some ⟨now, some 99, celsiusOfTenths ⟨true, 0⟩, some .sensorDisconnected⟩) ∧
  (∀ (now : Time) (b : Bytes), (∀ x rest, b = x :: rest → x ≠ 0x01) →
    (b.filter (fun x => 0x20 ≤ x.toNat ∧ x.toNat ≤ 0x7E)).length < 8 → parsePacket now b = none)
end

