-- ==== Sys2Proof/Laws/Codec.lean ====
section
/-! SUPPORT. Lemmas about byte order, the wire frame's layout, the checksum as a fold, and the codec. -/

namespace Sys2Proof

@[simp] theorem be16_hiByte_loByte (k : Word16) : be16 (hiByte k) (loByte k) = k := by
  apply BitVec.eq_of_toNat_eq
  have hk : k.toNat < 65536 := k.isLt
  simp only [be16, hiByte, loByte, BitVec.toNat_append, BitVec.extractLsb'_toNat, Nat.shiftRight_zero]
  rw [← Nat.shiftLeft_add_eq_or_of_lt (Nat.mod_lt _ (by decide)), Nat.shiftLeft_eq, Nat.shiftRight_eq_div_pow]
  omega

@[simp] theorem hiByte_be16 (h l : Byte) : hiByte (be16 h l) = h := by
  apply BitVec.eq_of_toNat_eq
  have h1 : h.toNat < 256 := h.isLt
  have h2 : l.toNat < 256 := l.isLt
  simp only [be16, hiByte, BitVec.toNat_append, BitVec.extractLsb'_toNat]
  rw [← Nat.shiftLeft_add_eq_or_of_lt (by exact h2), Nat.shiftLeft_eq, Nat.shiftRight_eq_div_pow]
  omega

@[simp] theorem loByte_be16 (h l : Byte) : loByte (be16 h l) = l := by
  apply BitVec.eq_of_toNat_eq
  have h1 : h.toNat < 256 := h.isLt
  have h2 : l.toNat < 256 := l.isLt
  simp only [be16, loByte, BitVec.toNat_append, BitVec.extractLsb'_toNat, Nat.shiftRight_zero]
  rw [← Nat.shiftLeft_add_eq_or_of_lt (by exact h2), Nat.shiftLeft_eq]
  omega

/-- The two length bytes declare the length they were made from (R82). -/
theorem le16_lenLo_lenHi {n : Nat} (h : n ≤ Config.maxPayload) : le16 (lenLo n) (lenHi n) = n := by
  have h' : n ≤ 65535 := h
  simp only [le16, lenLo, lenHi, BitVec.toNat_ofNat]
  omega

theorem lenLo_le16 (lo hi : Byte) : lenLo (le16 lo hi) = lo := by
  apply BitVec.eq_of_toNat_eq
  have h1 : lo.toNat < 256 := lo.isLt
  simp only [le16, lenLo, BitVec.toNat_ofNat]
  omega

theorem lenHi_le16 (lo hi : Byte) : lenHi (le16 lo hi) = hi := by
  apply BitVec.eq_of_toNat_eq
  have h1 : lo.toNat < 256 := lo.isLt
  have h2 : hi.toNat < 256 := hi.isLt
  simp only [le16, lenHi, BitVec.toNat_ofNat]
  omega

theorem le16_le (lo hi : Byte) : le16 lo hi ≤ Config.maxPayload := by
  have h1 : lo.toNat < 256 := lo.isLt
  have h2 : hi.toNat < 256 := hi.isLt
  simp only [le16, Config.maxPayload]
  omega

/-- The length of a frame on the wire (R80). -/
@[simp] theorem WireFrame.bytes_length (w : WireFrame) : w.bytes.length = 7 + w.payload.length := by
  simp [WireFrame.bytes, frameHeader]; omega

/-- Reading what was written gives the frame back (R80, R82). -/
theorem readWireFrame_bytes (w : WireFrame) (h : w.payload.length ≤ Config.maxPayload) :
    readWireFrame w.bytes = some w := by
  have hl : ¬ w.bytes.length < Config.minFrame := by simp [Config.minFrame]
  have ht : w.bytes.length = Config.hdrLen + w.payload.length + Config.crcLen := by
    simp [Config.hdrLen, Config.crcLen]; omega
  have hd : (w.payload ++ [hiByte w.crc, loByte w.crc]).drop w.payload.length = [hiByte w.crc, loByte w.crc] := by simp
  have hk : (w.payload ++ [hiByte w.crc, loByte w.crc]).take w.payload.length = w.payload := by simp
  unfold readWireFrame
  rw [if_neg hl, ht]
  simp only [WireFrame.bytes, frameHeader, List.cons_append, List.nil_append, le16_lenLo_lenHi h,
    ne_eq, not_true_eq_false, ite_false, hd, hk, be16_hiByte_loByte]

/-- What `readWireFrame` accepts is the bytes of the frame it answers, with a length that two bytes hold (R80,
R136 steps 1 to 5). -/
theorem eq_bytes_of_readWireFrame {b : Bytes} {w : WireFrame} (h : readWireFrame b = some w) :
    b = w.bytes ∧ w.payload.length ≤ Config.maxPayload := by
  unfold readWireFrame at h
  split at h
  · cases h
  · split at h
    · rename_i s cmd seq lo hi rest _
      split at h
      · cases h
      · rename_i hs
        split at h
        · cases h
        · rename_i hlen
          split at h
          · rename_i ch cl hdrop
            simp only [ne_eq, Decidable.not_not] at hs hlen
            have hw : w = ⟨cmd, seq, rest.take (le16 lo hi), be16 ch cl⟩ := by simpa using h.symm
            have hrest : le16 lo hi ≤ rest.length := by
              simp [Config.hdrLen, Config.crcLen] at hlen; omega
            have hpl : (rest.take (le16 lo hi)).length = le16 lo hi := by simp [hrest]
            subst hw hs
            refine ⟨?_, ?_⟩
            · have : rest = rest.take (le16 lo hi) ++ [ch, cl] := by
                rw [← hdrop, List.take_append_drop]
              simp only [WireFrame.bytes, frameHeader, hpl, lenLo_le16, lenHi_le16, hiByte_be16, loByte_be16,
                List.cons_append, List.nil_append]
              rw [← this]
            · simpa [hpl] using le16_le lo hi
          · cases h
    · cases h

namespace Machine

@[simp] theorem crcOver_nil (c : Word16) : crcOver c [] = c := rfl

@[simp] theorem crcOver_cons (c : Word16) (b : Byte) (d : Bytes) : crcOver c (b :: d) = crcOver (crcStep c b) d := rfl

/-- A checksum may be continued over further bytes (R112 (a)). -/
theorem crcOver_append (c : Word16) (a b : Bytes) : crcOver c (a ++ b) = crcOver (crcOver c a) b := by
  simp [crcOver, List.foldl_append]

/-- An encoded frame is the wire frame whose checksum covers header and payload (R131). -/
theorem encodeFrame_false (init : Word16) (cmd seq : Byte) (p : Bytes) :
    encodeFrame init cmd seq p false =
      WireFrame.bytes ⟨cmd, seq, p, crc16 init (frameHeader cmd seq p.length ++ p)⟩ := rfl

/-- With the break byte on, it stands before the same frame (R84). -/
theorem encodeFrame_true (init : Word16) (cmd seq : Byte) (p : Bytes) :
    encodeFrame init cmd seq p true = 0x00 :: encodeFrame init cmd seq p false := rfl

/-- The length of an encoded frame (R130). -/
theorem encodeFrame_length (init : Word16) (cmd seq : Byte) (p : Bytes) (brk : Bool) :
    (encodeFrame init cmd seq p brk).length = 7 + p.length + brk.toNat := by
  cases brk <;> simp [encodeFrame_true, encodeFrame_false]

/-- The part of a wire frame that its checksum covers (R81). -/
theorem take_bytes (w : WireFrame) :
    w.bytes.take (Config.hdrLen + w.payload.length) = frameHeader w.cmd w.seq w.payload.length ++ w.payload := by
  have : (frameHeader w.cmd w.seq w.payload.length ++ w.payload).length = Config.hdrLen + w.payload.length := by
    simp [frameHeader, Config.hdrLen]; omega
  simp only [WireFrame.bytes]
  rw [← this, List.take_left]

/-- Steps 6 and 7 of `decode` on a string with the layout of a frame (R136). -/
theorem decodeFrame_of_read {init : Word16} {b : Bytes} {w : WireFrame} (h : readWireFrame b = some w)
    (hk : crc16 init (b.take (Config.hdrLen + w.payload.length)) = w.crc) :
    decodeFrame init b = some ⟨w.cmd, w.seq, w.payload.length, w.payload, w.crc⟩ := by
  simp only [decodeFrame, h, hk, ite_true]

/-- Everything `decode` can accept: exactly the encodings of valid frames (R50, R136, R140). -/
theorem decodeFrame_eq_some_iff {init : Word16} {b : Bytes} {f : Frame} :
    decodeFrame init b = some f ↔
      frameValid init f = true ∧ b = encodeFrame init f.command f.sequence f.payload false := by
  constructor
  · intro h
    unfold decodeFrame at h
    split at h
    · cases h
    · rename_i w hw
      obtain ⟨hb, hp⟩ := eq_bytes_of_readWireFrame hw
      split at h
      · rename_i hk
        have hf : f = ⟨w.cmd, w.seq, w.payload.length, w.payload, w.crc⟩ := by simpa using h.symm
        rw [hb, take_bytes] at hk
        subst hf
        refine ⟨?_, ?_⟩
        · simp [frameValid, hp, hk]
        · simp only [encodeFrame_false, hk]; exact hb
      · cases h
  · rintro ⟨hv, rfl⟩
    simp only [frameValid, decide_eq_true_eq] at hv
    obtain ⟨hl, hm, hc⟩ := hv
    have hp : f.payload.length ≤ Config.maxPayload := hl ▸ hm
    obtain ⟨cmd, seq, len, payload, crc⟩ := f
    simp only at hl hc hp
    subst hl hc
    exact decodeFrame_of_read (readWireFrame_bytes ⟨cmd, seq, payload, _⟩ hp)
      (congrArg (crc16 init) (take_bytes ⟨cmd, seq, payload, _⟩))

end Machine

end Sys2Proof
end

