-- ==== Sys2Proof/Laws/Assembler.lean ====
section
/-! SUPPORT. Lemmas about the assembler: what one pass of the extraction loop can do, that its bound on passes never
shows, and that every operation on the buffer leaves it in its canonical form. -/

namespace Sys2Proof.Machine

/-- A read inside the buffer (spec/00_scope.md R13). -/
theorem memRead_eq_some_iff {buf : Bytes} {a n : Nat} {d : Bytes} :
    memRead buf a n = some d ↔ a + n ≤ buf.length ∧ d = (buf.drop a).take n := by
  unfold memRead
  split
  · rename_i h
    simp [h, eq_comm]
  · rename_i h
    simp [h]

/-- The bytes of a buffer that holds at least a minimal frame. -/
theorem exists_header {buf : Bytes} (h : ¬ buf.length < Config.minFrame) :
    ∃ s c q lo hi rest, buf = s :: c :: q :: lo :: hi :: rest := by
  have h7 : 7 ≤ buf.length := by simpa [Config.minFrame] using h
  match buf, h7 with
  | s :: c :: q :: lo :: hi :: rest, _ => exact ⟨s, c, q, lo, hi, rest, rfl⟩

/-- One pass on a buffer shorter than a minimal frame (R152 step 2). -/
theorem extractPass_short {init : Word16} {buf : Bytes} (h : buf.length < Config.minFrame) :
    extractPass init buf = .wait := by
  simp [extractPass, h]

/-- One pass on a buffer of at least seven bytes, by its header (R152 steps 3 to 5). -/
theorem extractPass_header {init : Word16} {s c q lo hi : Byte} {rest buf : Bytes}
    (hb : buf = s :: c :: q :: lo :: hi :: rest) (h : ¬ buf.length < Config.minFrame) :
    extractPass init buf =
      if s ≠ Config.soh then .skip (buf.drop 1)
      else if buf.length < Config.hdrLen + le16 lo hi + Config.crcLen then .wait
      else
        match decodeFrame init (buf.take (Config.hdrLen + le16 lo hi + Config.crcLen)) with
        | some f => .accept f (buf.drop (Config.hdrLen + le16 lo hi + Config.crcLen))
        | none => .reject (buf.take (Config.hdrLen + le16 lo hi + Config.crcLen)) (buf.drop 1) := by
  have h0 : memRead buf 0 1 = some [s] := by rw [memRead_eq_some_iff]; subst hb; simp
  have h3 : memRead buf 3 2 = some [lo, hi] := by rw [memRead_eq_some_iff]; subst hb; simp
  unfold extractPass
  rw [if_neg h]
  simp only [h0, h3, bufDrop]
  split
  · rfl
  · by_cases ht : buf.length < Config.hdrLen + le16 lo hi + Config.crcLen
    · have : memRead buf 0 (Config.hdrLen + le16 lo hi + Config.crcLen) = none := by
        unfold memRead; rw [if_neg (by omega)]
      simp only [this, ht, ite_true]
    · have : memRead buf 0 (Config.hdrLen + le16 lo hi + Config.crcLen) =
          some (buf.take (Config.hdrLen + le16 lo hi + Config.crcLen)) := by
        unfold memRead; rw [if_pos (by omega)]; simp
      simp only [this, ht, ite_false] <;> rfl

/-- Waiting is exactly the canonical form of the buffer (spec/10_state.md R36). -/
theorem extractPass_eq_wait_iff {init : Word16} {buf : Bytes} :
    extractPass init buf = .wait ↔ Memory.wf buf = true := by
  by_cases h : buf.length < Config.minFrame
  · simp only [extractPass_short h, true_iff]
    unfold Memory.wf
    split
    · simp only [h, decide_true, Bool.true_or]
    · rfl
  · obtain ⟨s, c, q, lo, hi, rest, hb⟩ := exists_header h
    rw [extractPass_header hb h]
    have hw : Memory.wf buf = (decide (buf.length < Config.minFrame) ||
        (s == Config.soh && decide (buf.length < Config.hdrLen + le16 lo hi + Config.crcLen))) := by
      subst hb; rfl
    rw [hw]
    by_cases hs : s = Config.soh
    · by_cases ht : buf.length < Config.hdrLen + le16 lo hi + Config.crcLen
      · simp [hs, ht]
      · rw [if_neg (by simpa using hs), if_neg ht]
        simp only [h, ht, decide_false, Bool.and_false, Bool.or_false, Bool.false_eq_true, iff_false]
        cases decodeFrame init (buf.take (Config.hdrLen + le16 lo hi + Config.crcLen)) <;> simp
    · simp [hs, h]

/-- Everything one pass can do (R152): wait; drop a byte that is no start marker; accept a valid frame that stands
at the head; or drop the start marker of a candidate that `decode` rejects. -/
theorem extractPass_cases (init : Word16) (buf : Bytes) :
    (extractPass init buf = .wait ∧ Memory.wf buf = true) ∨
    (∃ b rest, buf = b :: rest ∧ b ≠ Config.soh ∧ extractPass init buf = .skip rest) ∨
    (∃ f rest, buf = encodeFrame init f.command f.sequence f.payload false ++ rest ∧
      frameValid init f = true ∧ extractPass init buf = .accept f rest) ∨
    (∃ n rest, buf = Config.soh :: rest ∧ n ≤ buf.length ∧ decodeFrame init (buf.take n) = none ∧
      extractPass init buf = .reject (buf.take n) rest) := by
  by_cases h : buf.length < Config.minFrame
  · exact .inl ⟨extractPass_short h, extractPass_eq_wait_iff.mp (extractPass_short (init := init) h)⟩
  · obtain ⟨s, c, q, lo, hi, rest, hb⟩ := exists_header h
    have hp := extractPass_header (init := init) hb h
    by_cases hs : s = Config.soh
    · by_cases ht : buf.length < Config.hdrLen + le16 lo hi + Config.crcLen
      · have hw : extractPass init buf = .wait := by rw [hp]; simp [hs, ht]
        exact .inl ⟨hw, extractPass_eq_wait_iff.mp hw⟩
      · rw [if_neg (by simpa using hs), if_neg ht] at hp
        cases hd : decodeFrame init (buf.take (Config.hdrLen + le16 lo hi + Config.crcLen)) with
        | some f =>
          obtain ⟨hv, he⟩ := decodeFrame_eq_some_iff.mp hd
          refine .inr (.inr (.inl ⟨f, buf.drop (Config.hdrLen + le16 lo hi + Config.crcLen), ?_, hv, ?_⟩))
          · rw [← he, List.take_append_drop]
          · rw [hp, hd]
        | none =>
          refine .inr (.inr (.inr ⟨_, buf.drop 1, ?_, by omega, hd, ?_⟩))
          · subst hb hs; rfl
          · rw [hp, hd]
    · refine .inr (.inl ⟨s, buf.drop 1, ?_, hs, ?_⟩)
      · subst hb; rfl
      · rw [hp]; simp [hs]

/-- What the buffer is after a pass that goes on. -/
def Pass.next : Pass → Option Bytes
  | .wait => none
  | .skip rest => some rest
  | .accept _ rest => some rest
  | .reject _ rest => some rest

/-- A pass that goes on removes at least one byte (R153). -/
theorem extractPass_shrinks {init : Word16} {buf rest : Bytes} (h : (extractPass init buf).next = some rest) :
    rest.length < buf.length := by
  rcases extractPass_cases init buf with ⟨e, -⟩ | ⟨b, r, hb, -, e⟩ | ⟨f, r, hb, -, e⟩ | ⟨n, r, hb, -, -, e⟩ <;>
    rw [e] at h <;> simp only [Pass.next, Option.some.injEq, reduceCtorEq] at h
  · subst h hb; simp
  · subst h; rw [hb, List.length_append, encodeFrame_length]; omega
  · subst h hb; simp

/-- The passes of the loop beyond the buffer's length never show (R153). -/
theorem extractLoop_fuel {init : Word16} :
    ∀ {n m : Nat} {buf : Bytes}, buf.length < n → buf.length < m →
      extractLoop init n buf = extractLoop init m buf := by
  intro n
  induction n with
  | zero => intro m buf h _; omega
  | succ n ih =>
    intro m buf h hm
    cases m with
    | zero => omega
    | succ m =>
      have step : ∀ rest, (extractPass init buf).next = some rest →
          extractLoop init n rest = extractLoop init m rest := by
        intro rest hr
        have := extractPass_shrinks hr
        exact ih (by omega) (by omega)
      simp only [extractLoop]
      cases hp : extractPass init buf with
      | wait => rfl
      | skip rest => exact step rest (by rw [hp]; rfl)
      | accept f rest => simp only [step rest (by rw [hp]; rfl)]
      | reject cand rest => simp only [step rest (by rw [hp]; rfl)]

/-- `extract` as its own recursion (R152): one pass, then `extract` on what the pass leaves. -/
theorem extract_eq (init : Word16) (buf : Bytes) :
    extract init buf =
      match extractPass init buf with
      | .wait => ⟨[], [], buf⟩
      | .skip rest => extract init rest
      | .accept f rest => ⟨f :: (extract init rest).frames, (extract init rest).fails, (extract init rest).buf⟩
      | .reject cand rest =>
        ⟨(extract init rest).frames, cand :: (extract init rest).fails, (extract init rest).buf⟩ := by
  have step : ∀ rest, (extractPass init buf).next = some rest →
      extractLoop init buf.length rest = extract init rest := by
    intro rest hr
    have := extractPass_shrinks hr
    exact extractLoop_fuel (by omega) (by omega)
  conv_lhs => unfold extract; simp only [extractLoop]
  cases hp : extractPass init buf with
  | wait => rfl
  | skip rest => exact step rest (by rw [hp]; rfl)
  | accept f rest => simp only [step rest (by rw [hp]; rfl)]
  | reject cand rest => simp only [step rest (by rw [hp]; rfl)]

/-- Induction along the passes of `extract`: a fact about every buffer holds if it holds of a buffer the loop
waits on, and of each buffer whenever it holds of the one a pass leaves. -/
theorem extract_induction {init : Word16} {motive : Bytes → Prop}
    (wait : ∀ buf, extractPass init buf = .wait → motive buf)
    (pass : ∀ buf rest, (extractPass init buf).next = some rest → motive rest → motive buf) (buf : Bytes) :
    motive buf := by
  induction hn : buf.length using Nat.strong_induction_on generalizing buf with
  | _ n ih =>
    cases hp : (extractPass init buf).next with
    | none =>
      refine wait buf ?_
      cases hq : extractPass init buf <;> simp_all [Pass.next]
    | some rest =>
      have := extractPass_shrinks hp
      exact pass buf rest hp (ih rest.length (by omega) rest rfl)

/-- `extract` leaves the buffer in its canonical form (R36, R153). -/
theorem extract_wf (init : Word16) (buf : Bytes) : Memory.wf (extract init buf).buf = true := by
  refine extract_induction (init := init) (motive := fun b => Memory.wf (extract init b).buf = true) ?_ ?_ buf
  · intro b hb
    rw [extract_eq, hb]
    exact extractPass_eq_wait_iff.mp hb
  · intro b rest hr ih
    rw [extract_eq]
    cases hp : extractPass init b <;> rw [hp] at hr <;> simp only [Pass.next, Option.some.injEq, reduceCtorEq] at hr
    all_goals subst hr; exact ih

/-- A buffer in canonical form is left as it is (R152). -/
theorem extract_of_wf {init : Word16} {buf : Bytes} (h : Memory.wf buf = true) :
    extract init buf = ⟨[], [], buf⟩ := by
  rw [extract_eq, extractPass_eq_wait_iff.mpr h]

/-- Every frame `extract` finds satisfies the invariants of a frame value (R50, R159). -/
theorem extract_frames_valid (init : Word16) (buf : Bytes) :
    ∀ f ∈ (extract init buf).frames, frameValid init f = true := by
  refine extract_induction (init := init)
    (motive := fun b => ∀ f ∈ (extract init b).frames, frameValid init f = true) ?_ ?_ buf
  · intro b hb
    rw [extract_eq, hb]; simp
  · intro b rest hr ih
    rw [extract_eq]
    rcases extractPass_cases init b with ⟨e, -⟩ | ⟨x, r, -, -, e⟩ | ⟨f, r, -, hv, e⟩ | ⟨n, r, -, -, -, e⟩ <;>
      rw [e] at hr <;> simp only [Pass.next, Option.some.injEq, reduceCtorEq] at hr <;> subst hr <;> rw [e]
    · exact ih
    · simpa [hv] using ih
    · exact ih

/-- The canonical form bounds the buffer (R36: at most 65541 bytes). -/
theorem Memory.wf_length {buf : Bytes} (h : Memory.wf buf = true) : buf.length < Config.bufCap := by
  unfold Memory.wf at h
  split at h
  · rename_i s c q lo hi rest
    have hm := le16_le lo hi
    simp only [Bool.or_eq_true, Bool.and_eq_true, decide_eq_true_eq] at h
    simp only [Config.minFrame, Config.hdrLen, Config.crcLen, Config.maxPayload, Config.bufCap] at h hm ⊢
    omega
  · rename_i hn
    by_contra hc
    have : ¬ buf.length < Config.minFrame := by simp [Config.bufCap, Config.minFrame] at *; omega
    obtain ⟨s, c, q, lo, hi, rest, hb⟩ := exists_header this
    exact hn s c q lo hi rest hb

/-- The empty buffer is in canonical form. -/
@[simp] theorem Memory.wf_nil : Memory.wf [] = true := rfl

/-- The buffer at reset is in canonical form. -/
theorem Memory.wf_reset : Memory.wf State.reset.buf = true := rfl

/-- Appending a chunk leaves the canonical form. -/
theorem Memory.wf_append (init : Word16) (buf chunk : Bytes) : Memory.wf (appendChunk init buf chunk).buf = true :=
  extract_wf init _

/-- The state after FA.APPEND's assembling, in one equation: only the buffer and the event list change (R150). -/
theorem assemble_eq (P : Params) (chunk : Bytes) (s : State) :
    assemble P chunk s =
      ((appendChunk P.crcInit s.buf chunk).frames,
        { s with
          buf := (appendChunk P.crcInit s.buf chunk).buf
          events := s.events ++ (appendChunk P.crcInit s.buf chunk).fails.map Event.logCrcFail }) := rfl

end Sys2Proof.Machine
end

