-- ==== Sys2Proof/Laws/Config.lean ====
section
/-! SUPPORT. The constraints of spec/00_scope.md R9 hold of this hardware's configuration, whatever its free
constants are, and what they give for status bytes and command codes. -/

namespace Sys2Proof

theorem Config.respSlot_injective {c d : Command} (h : Config.respSlot c = Config.respSlot d) : c = d := by
  cases c <;> cases d <;> first | rfl | (exact absurd h (by decide))

theorem Config.nonZeroByte_ne_zero (n : Fin 255) : Config.nonZeroByte n ≠ 0 := by
  intro h
  have h' : (Config.nonZeroByte n).toNat = 0 := by rw [h]; rfl
  have hn := n.isLt
  simp only [Config.nonZeroByte, BitVec.toNat_ofNat] at h'
  omega

theorem Config.nonZeroByte_injective {m n : Fin 255} (h : Config.nonZeroByte m = Config.nonZeroByte n) : m = n := by
  have h' := congrArg BitVec.toNat h
  have hm := m.isLt
  have hn := n.isLt
  simp only [Config.nonZeroByte, BitVec.toNat_ofNat] at h'
  ext
  omega

theorem Config.statusBusy_ne_reasonLocked : Config.statusBusy ≠ Config.reasonLocked := by
  intro h
  exact absurd (Config.statusPermutation.injective (Config.nonZeroByte_injective h)) (by decide)

/-- The constraints of R9 hold of this hardware's configuration. -/
theorem Config.wpe_valid : Config.wpe.Valid := by
  have hb : Config.statusBusy ≠ Config.reasonLocked := Config.statusBusy_ne_reasonLocked
  have h0 : ¬ 0#8 = Config.reasonLocked := fun h => Config.nonZeroByte_ne_zero _ h.symm
  refine ⟨?_, Config.nonZeroByte_ne_zero _, ?_, ?_, ?_, by simp [Config.wpe]⟩
  · intro c d h
    exact Config.respSlot_injective (Config.respPermutation.injective h)
  · simp [Config.wpe, Config.refuses, hb]
  · simp [Config.wpe, Config.refuses, h0]
  · simp [Config.wpe, Config.refuses]

@[simp] theorem Config.wpe_crcInit : Config.wpe.crcInit = 0x0000#16 := rfl

@[simp] theorem Config.wpe_settingsReadPayload : Config.wpe.settingsReadPayload = [] := rfl

@[simp] theorem Config.wpe_packing : Config.wpe.packing = .packedBcd := rfl

namespace Machine

variable {P : Params}

@[simp] theorem statusOf_nil : statusOf P [] = .missing := rfl

/-- Status byte 0x00 is Ack (R90). -/
theorem statusOf_ack (rest : Bytes) : statusOf P (0x00 :: rest) = .ack := by
  simp [statusOf, Config.statusAck]

/-- STATUS_BUSY is Busy (R90, R9). -/
theorem statusOf_busy (h : P.Valid) (rest : Bytes) : statusOf P (P.statusBusy :: rest) = .busy := by
  have h0 : ¬ P.statusBusy = 0#8 := h.2.1
  simp [statusOf, Config.statusAck, h0]

/-- A member of REFUSE_CODES is Refuse of itself (R90, R9). -/
theorem statusOf_refuse (h : P.Valid) {r : Byte} (hr : P.refuses r = true) (rest : Bytes) :
    statusOf P (r :: rest) = .refuse r := by
  have h0 : r ≠ Config.statusAck := by rintro rfl; exact absurd hr (by simpa [Config.statusAck] using h.2.2.2.1)
  have hb : r ≠ P.statusBusy := by rintro rfl; exact absurd hr (by simp [h.2.2.1])
  simp [statusOf, h0, hb, hr]

/-- The security-locked reason is a refusal (R9). -/
theorem statusOf_reasonLocked (h : P.Valid) (rest : Bytes) :
    statusOf P (P.reasonLocked :: rest) = .refuse P.reasonLocked :=
  statusOf_refuse h h.2.2.2.2.1 rest

/-- What `classify` answers has that response code (R91). -/
theorem respCode_of_classify {b : Byte} {c : Command} (h : classify P b = some c) : P.respCode c = b := by
  have := List.find?_some h
  simpa using this

/-- The response code of a class is classified as that class (R91). -/
theorem classify_respCode (h : P.Valid) (c : Command) : classify P (P.respCode c) = some c := by
  have hx : ∃ d, classify P (P.respCode c) = some d := by
    rw [← Option.isSome_iff_exists, classify, List.find?_isSome]
    exact ⟨c, by cases c <;> decide, by simp⟩
  obtain ⟨d, hd⟩ := hx
  rw [hd, h.1 d c (respCode_of_classify hd)]

/-- A byte is an unknown command exactly when it is no class's response code (R10, R91). -/
theorem classify_eq_none_iff {b : Byte} : classify P b = none ↔ ∀ c, P.respCode c ≠ b := by
  rw [classify, List.find?_eq_none]
  constructor
  · intro h c hc
    exact h c (by cases c <;> decide) (by simp [hc])
  · intro h c _ hc
    exact h c (by simpa using hc)

end Machine

end Sys2Proof
end

