-- ==== Sys2Proof/Laws/PerInstr.lean ====
section
/-! SUPPORT. The family EncodeConforms: a well-formed instruction's encoding has the form the encoding tables give it
(spec/30_encoding.md R80, R93, R95, R96), operand types included. One lemma per instruction. -/

namespace Sys2Proof.Laws

/-- The type of an operand on the port (R95). -/
def typeOf : Operand → OperandType
  | .byte _ => .byte
  | .bit _ => .bit
  | .bytes _ => .bytes
  | .cls _ => .cls
  | .pstate _ => .pstate
  | .time _ => .time
  | .ident _ => .ident
  | .text _ => .text
  | .frame _ => .frame

/-- A presentation has the form of its format: an operation of the table stands with its operand types (R95), the
bytes of a wire frame have its layout (R80), those of a passcode are four (R93). -/
def conforms : Presentation → Bool
  | .op code operands =>
    match OpName.ofCode code with
    | some o => operands.map typeOf == o.signature
    | none => operands.isEmpty
  | .wireFrame b => (readWireFrame b).isSome
  | .statusByte _ => true
  | .passcodePayload b => b.length == 4
  | .cmdByte _ => true

namespace EncodeConforms

/-- The family's statement about an instruction. -/
def Statement (i : Instr) : Prop := i.wf = true → conforms (encode i) = true

theorem wpeReset : Statement .wpeReset := fun _ => rfl

theorem wpeNotify (chunk : Bytes) (now : Time) : Statement (.wpeNotify chunk now) := fun _ => rfl

theorem crcInit : Statement .crcInit := fun _ => rfl

theorem crcUpdate (b : Byte) : Statement (.crcUpdate b) := fun _ => rfl

theorem crcRead : Statement .crcRead := fun _ => rfl

theorem crcBlock (data : Bytes) : Statement (.crcBlock data) := fun _ => rfl

theorem fcEncode (cmd seq : Byte) (payload : Bytes) (brk : Bool) : Statement (.fcEncode cmd seq payload brk) := fun _ => rfl

theorem fcDecode (data : Bytes) : Statement (.fcDecode data) := fun _ => rfl

theorem faAppend (chunk : Bytes) : Statement (.faAppend chunk) := fun _ => rfl

theorem faReset : Statement .faReset := fun _ => rfl

theorem csSend (c : BitVec 3) (payload : Bytes) : Statement (.csSend c payload) := fun _ => rfl

theorem csRecv (f : Frame) (now : Time) : Statement (.csRecv f now) := fun _ => rfl

theorem csConnect (id : DeviceId) (brk : Bool) : Statement (.csConnect id brk) := fun _ => rfl

theorem csChannel (w : Bool) : Statement (.csChannel w) := fun _ => rfl

theorem csPollstate (p : PState) : Statement (.csPollstate p) := fun _ => rfl

theorem csDisconnect : Statement .csDisconnect := fun _ => rfl

theorem csPassenc (s : Text) : Statement (.csPassenc s) := fun _ => rfl

theorem csUnlock (s : Text) : Statement (.csUnlock s) := fun _ => rfl

theorem illegalOp (op : Byte) : Statement (.illegalOp op) := by
  intro h
  have : OpName.ofCode op = none := by simpa [Instr.wf, inTable] using h
  simp [encode, conforms, this]

theorem frame (cmd seq : Byte) (payload : Bytes) (crc : Word16) : Statement (.frame cmd seq payload crc) := by
  intro h
  have hp : payload.length ≤ Config.maxPayload := by simpa [Instr.wf] using h
  simp [encode, conforms, readWireFrame_bytes ⟨cmd, seq, payload, crc⟩ hp]

theorem status (payload : Bytes) : Statement (.status payload) := fun _ => rfl

theorem passcode (a b c d e f g h : BitVec 4) : Statement (.passcode a b c d e f g h) := fun _ => rfl

theorem commandClass (b : Byte) : Statement (.commandClass b) := fun _ => rfl

end EncodeConforms

end Sys2Proof.Laws
end

