-- ==== Sys2Proof/Laws/State.lean ====
section
/-! SUPPORT. One lemma per field per update of the state: what each named update leaves in each field. -/

namespace Sys2Proof.Machine

variable (s : State)

/-! ### `begin` -/

@[simp] theorem begin_crc : (begin s).crc = s.crc := rfl
@[simp] theorem begin_buf : (begin s).buf = s.buf := rfl
@[simp] theorem begin_seq : (begin s).seq = s.seq := rfl
@[simp] theorem begin_fsm : (begin s).fsm = s.fsm := rfl
@[simp] theorem begin_writeAvail : (begin s).writeAvail = s.writeAvail := rfl
@[simp] theorem begin_brkEn : (begin s).brkEn = s.brkEn := rfl
@[simp] theorem begin_deviceId : (begin s).deviceId = s.deviceId := rfl
@[simp] theorem begin_unlocked : (begin s).unlocked = s.unlocked := rfl
@[simp] theorem begin_autoSpent : (begin s).autoSpent = s.autoSpent := rfl
@[simp] theorem begin_expect : (begin s).expect = s.expect := rfl
@[simp] theorem begin_defer : (begin s).defer = s.defer := rfl
@[simp] theorem begin_snap : (begin s).snap = s.snap := rfl
@[simp] theorem begin_port : (begin s).port = s.port := rfl
@[simp] theorem begin_lookup : (begin s).lookup = s.lookup := rfl
@[simp] theorem begin_result : (begin s).result = .none := rfl
@[simp] theorem begin_events : (begin s).events = [] := rfl

/-! ### `answer` -/

@[simp] theorem answer_crc (r : Result) : (answer r s).crc = s.crc := rfl
@[simp] theorem answer_buf (r : Result) : (answer r s).buf = s.buf := rfl
@[simp] theorem answer_seq (r : Result) : (answer r s).seq = s.seq := rfl
@[simp] theorem answer_fsm (r : Result) : (answer r s).fsm = s.fsm := rfl
@[simp] theorem answer_writeAvail (r : Result) : (answer r s).writeAvail = s.writeAvail := rfl
@[simp] theorem answer_brkEn (r : Result) : (answer r s).brkEn = s.brkEn := rfl
@[simp] theorem answer_deviceId (r : Result) : (answer r s).deviceId = s.deviceId := rfl
@[simp] theorem answer_unlocked (r : Result) : (answer r s).unlocked = s.unlocked := rfl
@[simp] theorem answer_autoSpent (r : Result) : (answer r s).autoSpent = s.autoSpent := rfl
@[simp] theorem answer_expect (r : Result) : (answer r s).expect = s.expect := rfl
@[simp] theorem answer_defer (r : Result) : (answer r s).defer = s.defer := rfl
@[simp] theorem answer_snap (r : Result) : (answer r s).snap = s.snap := rfl
@[simp] theorem answer_port (r : Result) : (answer r s).port = s.port := rfl
@[simp] theorem answer_lookup (r : Result) : (answer r s).lookup = s.lookup := rfl
@[simp] theorem answer_result (r : Result) : (answer r s).result = r := rfl
@[simp] theorem answer_events (r : Result) : (answer r s).events = s.events := rfl

/-! ### `emit` -/

@[simp] theorem emit_crc (e : Event) : (emit e s).crc = s.crc := rfl
@[simp] theorem emit_buf (e : Event) : (emit e s).buf = s.buf := rfl
@[simp] theorem emit_seq (e : Event) : (emit e s).seq = s.seq := rfl
@[simp] theorem emit_fsm (e : Event) : (emit e s).fsm = s.fsm := rfl
@[simp] theorem emit_writeAvail (e : Event) : (emit e s).writeAvail = s.writeAvail := rfl
@[simp] theorem emit_brkEn (e : Event) : (emit e s).brkEn = s.brkEn := rfl
@[simp] theorem emit_deviceId (e : Event) : (emit e s).deviceId = s.deviceId := rfl
@[simp] theorem emit_unlocked (e : Event) : (emit e s).unlocked = s.unlocked := rfl
@[simp] theorem emit_autoSpent (e : Event) : (emit e s).autoSpent = s.autoSpent := rfl
@[simp] theorem emit_expect (e : Event) : (emit e s).expect = s.expect := rfl
@[simp] theorem emit_defer (e : Event) : (emit e s).defer = s.defer := rfl
@[simp] theorem emit_snap (e : Event) : (emit e s).snap = s.snap := rfl
@[simp] theorem emit_port (e : Event) : (emit e s).port = s.port := rfl
@[simp] theorem emit_lookup (e : Event) : (emit e s).lookup = s.lookup := rfl
@[simp] theorem emit_result (e : Event) : (emit e s).result = s.result := rfl
@[simp] theorem emit_events (e : Event) : (emit e s).events = s.events ++ [e] := rfl

/-! ### `raise` -/

@[simp] theorem raise_crc (k : ErrorKind) : (raise k s).crc = s.crc := rfl
@[simp] theorem raise_buf (k : ErrorKind) : (raise k s).buf = s.buf := rfl
@[simp] theorem raise_seq (k : ErrorKind) : (raise k s).seq = s.seq := rfl
@[simp] theorem raise_fsm (k : ErrorKind) : (raise k s).fsm = s.fsm := rfl
@[simp] theorem raise_writeAvail (k : ErrorKind) : (raise k s).writeAvail = s.writeAvail := rfl
@[simp] theorem raise_brkEn (k : ErrorKind) : (raise k s).brkEn = s.brkEn := rfl
@[simp] theorem raise_deviceId (k : ErrorKind) : (raise k s).deviceId = s.deviceId := rfl
@[simp] theorem raise_unlocked (k : ErrorKind) : (raise k s).unlocked = s.unlocked := rfl
@[simp] theorem raise_autoSpent (k : ErrorKind) : (raise k s).autoSpent = s.autoSpent := rfl
@[simp] theorem raise_expect (k : ErrorKind) : (raise k s).expect = s.expect := rfl
@[simp] theorem raise_defer (k : ErrorKind) : (raise k s).defer = s.defer := rfl
@[simp] theorem raise_snap (k : ErrorKind) : (raise k s).snap = s.snap := rfl
@[simp] theorem raise_port (k : ErrorKind) : (raise k s).port = s.port := rfl
@[simp] theorem raise_lookup (k : ErrorKind) : (raise k s).lookup = s.lookup := rfl
@[simp] theorem raise_result (k : ErrorKind) : (raise k s).result = s.result := rfl
@[simp] theorem raise_events (k : ErrorKind) : (raise k s).events = s.events ++ [.error k] := rfl

/-! ### `setWriteAvail` -/

@[simp] theorem setWriteAvail_crc (w : Bool) : (setWriteAvail w s).crc = s.crc := rfl
@[simp] theorem setWriteAvail_buf (w : Bool) : (setWriteAvail w s).buf = s.buf := rfl
@[simp] theorem setWriteAvail_seq (w : Bool) : (setWriteAvail w s).seq = s.seq := rfl
@[simp] theorem setWriteAvail_fsm (w : Bool) : (setWriteAvail w s).fsm = s.fsm := rfl
@[simp] theorem setWriteAvail_writeAvail (w : Bool) : (setWriteAvail w s).writeAvail = w := rfl
@[simp] theorem setWriteAvail_brkEn (w : Bool) : (setWriteAvail w s).brkEn = s.brkEn := rfl
@[simp] theorem setWriteAvail_deviceId (w : Bool) : (setWriteAvail w s).deviceId = s.deviceId := rfl
@[simp] theorem setWriteAvail_unlocked (w : Bool) : (setWriteAvail w s).unlocked = s.unlocked := rfl
@[simp] theorem setWriteAvail_autoSpent (w : Bool) : (setWriteAvail w s).autoSpent = s.autoSpent := rfl
@[simp] theorem setWriteAvail_expect (w : Bool) : (setWriteAvail w s).expect = s.expect := rfl
@[simp] theorem setWriteAvail_defer (w : Bool) : (setWriteAvail w s).defer = s.defer := rfl
@[simp] theorem setWriteAvail_snap (w : Bool) : (setWriteAvail w s).snap = s.snap := rfl
@[simp] theorem setWriteAvail_port (w : Bool) : (setWriteAvail w s).port = s.port := rfl
@[simp] theorem setWriteAvail_lookup (w : Bool) : (setWriteAvail w s).lookup = s.lookup := rfl
@[simp] theorem setWriteAvail_result (w : Bool) : (setWriteAvail w s).result = s.result := rfl
@[simp] theorem setWriteAvail_events (w : Bool) : (setWriteAvail w s).events = s.events := rfl

/-! ### `setBrkEn` -/

@[simp] theorem setBrkEn_crc (w : Bool) : (setBrkEn w s).crc = s.crc := rfl
@[simp] theorem setBrkEn_buf (w : Bool) : (setBrkEn w s).buf = s.buf := rfl
@[simp] theorem setBrkEn_seq (w : Bool) : (setBrkEn w s).seq = s.seq := rfl
@[simp] theorem setBrkEn_fsm (w : Bool) : (setBrkEn w s).fsm = s.fsm := rfl
@[simp] theorem setBrkEn_writeAvail (w : Bool) : (setBrkEn w s).writeAvail = s.writeAvail := rfl
@[simp] theorem setBrkEn_brkEn (w : Bool) : (setBrkEn w s).brkEn = w := rfl
@[simp] theorem setBrkEn_deviceId (w : Bool) : (setBrkEn w s).deviceId = s.deviceId := rfl
@[simp] theorem setBrkEn_unlocked (w : Bool) : (setBrkEn w s).unlocked = s.unlocked := rfl
@[simp] theorem setBrkEn_autoSpent (w : Bool) : (setBrkEn w s).autoSpent = s.autoSpent := rfl
@[simp] theorem setBrkEn_expect (w : Bool) : (setBrkEn w s).expect = s.expect := rfl
@[simp] theorem setBrkEn_defer (w : Bool) : (setBrkEn w s).defer = s.defer := rfl
@[simp] theorem setBrkEn_snap (w : Bool) : (setBrkEn w s).snap = s.snap := rfl
@[simp] theorem setBrkEn_port (w : Bool) : (setBrkEn w s).port = s.port := rfl
@[simp] theorem setBrkEn_lookup (w : Bool) : (setBrkEn w s).lookup = s.lookup := rfl
@[simp] theorem setBrkEn_result (w : Bool) : (setBrkEn w s).result = s.result := rfl
@[simp] theorem setBrkEn_events (w : Bool) : (setBrkEn w s).events = s.events := rfl

/-! ### `setUnlocked` -/

@[simp] theorem setUnlocked_crc (w : Bool) : (setUnlocked w s).crc = s.crc := rfl
@[simp] theorem setUnlocked_buf (w : Bool) : (setUnlocked w s).buf = s.buf := rfl
@[simp] theorem setUnlocked_seq (w : Bool) : (setUnlocked w s).seq = s.seq := rfl
@[simp] theorem setUnlocked_fsm (w : Bool) : (setUnlocked w s).fsm = s.fsm := rfl
@[simp] theorem setUnlocked_writeAvail (w : Bool) : (setUnlocked w s).writeAvail = s.writeAvail := rfl
@[simp] theorem setUnlocked_brkEn (w : Bool) : (setUnlocked w s).brkEn = s.brkEn := rfl
@[simp] theorem setUnlocked_deviceId (w : Bool) : (setUnlocked w s).deviceId = s.deviceId := rfl
@[simp] theorem setUnlocked_unlocked (w : Bool) : (setUnlocked w s).unlocked = w := rfl
@[simp] theorem setUnlocked_autoSpent (w : Bool) : (setUnlocked w s).autoSpent = s.autoSpent := rfl
@[simp] theorem setUnlocked_expect (w : Bool) : (setUnlocked w s).expect = s.expect := rfl
@[simp] theorem setUnlocked_defer (w : Bool) : (setUnlocked w s).defer = s.defer := rfl
@[simp] theorem setUnlocked_snap (w : Bool) : (setUnlocked w s).snap = s.snap := rfl
@[simp] theorem setUnlocked_port (w : Bool) : (setUnlocked w s).port = s.port := rfl
@[simp] theorem setUnlocked_lookup (w : Bool) : (setUnlocked w s).lookup = s.lookup := rfl
@[simp] theorem setUnlocked_result (w : Bool) : (setUnlocked w s).result = s.result := rfl
@[simp] theorem setUnlocked_events (w : Bool) : (setUnlocked w s).events = s.events := rfl

/-! ### `setAutoSpent` -/

@[simp] theorem setAutoSpent_crc (w : Bool) : (setAutoSpent w s).crc = s.crc := rfl
@[simp] theorem setAutoSpent_buf (w : Bool) : (setAutoSpent w s).buf = s.buf := rfl
@[simp] theorem setAutoSpent_seq (w : Bool) : (setAutoSpent w s).seq = s.seq := rfl
@[simp] theorem setAutoSpent_fsm (w : Bool) : (setAutoSpent w s).fsm = s.fsm := rfl
@[simp] theorem setAutoSpent_writeAvail (w : Bool) : (setAutoSpent w s).writeAvail = s.writeAvail := rfl
@[simp] theorem setAutoSpent_brkEn (w : Bool) : (setAutoSpent w s).brkEn = s.brkEn := rfl
@[simp] theorem setAutoSpent_deviceId (w : Bool) : (setAutoSpent w s).deviceId = s.deviceId := rfl
@[simp] theorem setAutoSpent_unlocked (w : Bool) : (setAutoSpent w s).unlocked = s.unlocked := rfl
@[simp] theorem setAutoSpent_autoSpent (w : Bool) : (setAutoSpent w s).autoSpent = w := rfl
@[simp] theorem setAutoSpent_expect (w : Bool) : (setAutoSpent w s).expect = s.expect := rfl
@[simp] theorem setAutoSpent_defer (w : Bool) : (setAutoSpent w s).defer = s.defer := rfl
@[simp] theorem setAutoSpent_snap (w : Bool) : (setAutoSpent w s).snap = s.snap := rfl
@[simp] theorem setAutoSpent_port (w : Bool) : (setAutoSpent w s).port = s.port := rfl
@[simp] theorem setAutoSpent_lookup (w : Bool) : (setAutoSpent w s).lookup = s.lookup := rfl
@[simp] theorem setAutoSpent_result (w : Bool) : (setAutoSpent w s).result = s.result := rfl
@[simp] theorem setAutoSpent_events (w : Bool) : (setAutoSpent w s).events = s.events := rfl

/-! ### `setFsm` -/

@[simp] theorem setFsm_crc (f : Fsm) : (setFsm f s).crc = s.crc := rfl
@[simp] theorem setFsm_buf (f : Fsm) : (setFsm f s).buf = s.buf := rfl
@[simp] theorem setFsm_seq (f : Fsm) : (setFsm f s).seq = s.seq := rfl
@[simp] theorem setFsm_fsm (f : Fsm) : (setFsm f s).fsm = f := rfl
@[simp] theorem setFsm_writeAvail (f : Fsm) : (setFsm f s).writeAvail = s.writeAvail := rfl
@[simp] theorem setFsm_brkEn (f : Fsm) : (setFsm f s).brkEn = s.brkEn := rfl
@[simp] theorem setFsm_deviceId (f : Fsm) : (setFsm f s).deviceId = s.deviceId := rfl
@[simp] theorem setFsm_unlocked (f : Fsm) : (setFsm f s).unlocked = s.unlocked := rfl
@[simp] theorem setFsm_autoSpent (f : Fsm) : (setFsm f s).autoSpent = s.autoSpent := rfl
@[simp] theorem setFsm_expect (f : Fsm) : (setFsm f s).expect = s.expect := rfl
@[simp] theorem setFsm_defer (f : Fsm) : (setFsm f s).defer = s.defer := rfl
@[simp] theorem setFsm_snap (f : Fsm) : (setFsm f s).snap = s.snap := rfl
@[simp] theorem setFsm_port (f : Fsm) : (setFsm f s).port = s.port := rfl
@[simp] theorem setFsm_lookup (f : Fsm) : (setFsm f s).lookup = s.lookup := rfl
@[simp] theorem setFsm_result (f : Fsm) : (setFsm f s).result = s.result := rfl
@[simp] theorem setFsm_events (f : Fsm) : (setFsm f s).events = s.events := rfl

/-! ### `logFails` -/

@[simp] theorem logFails_crc (fs : List Bytes) : (logFails fs s).crc = s.crc := rfl
@[simp] theorem logFails_buf (fs : List Bytes) : (logFails fs s).buf = s.buf := rfl
@[simp] theorem logFails_seq (fs : List Bytes) : (logFails fs s).seq = s.seq := rfl
@[simp] theorem logFails_fsm (fs : List Bytes) : (logFails fs s).fsm = s.fsm := rfl
@[simp] theorem logFails_writeAvail (fs : List Bytes) : (logFails fs s).writeAvail = s.writeAvail := rfl
@[simp] theorem logFails_brkEn (fs : List Bytes) : (logFails fs s).brkEn = s.brkEn := rfl
@[simp] theorem logFails_deviceId (fs : List Bytes) : (logFails fs s).deviceId = s.deviceId := rfl
@[simp] theorem logFails_unlocked (fs : List Bytes) : (logFails fs s).unlocked = s.unlocked := rfl
@[simp] theorem logFails_autoSpent (fs : List Bytes) : (logFails fs s).autoSpent = s.autoSpent := rfl
@[simp] theorem logFails_expect (fs : List Bytes) : (logFails fs s).expect = s.expect := rfl
@[simp] theorem logFails_defer (fs : List Bytes) : (logFails fs s).defer = s.defer := rfl
@[simp] theorem logFails_snap (fs : List Bytes) : (logFails fs s).snap = s.snap := rfl
@[simp] theorem logFails_port (fs : List Bytes) : (logFails fs s).port = s.port := rfl
@[simp] theorem logFails_lookup (fs : List Bytes) : (logFails fs s).lookup = s.lookup := rfl
@[simp] theorem logFails_result (fs : List Bytes) : (logFails fs s).result = s.result := rfl
@[simp] theorem logFails_events (fs : List Bytes) : (logFails fs s).events = s.events ++ fs.map Event.logCrcFail := rfl

/-! ### `pushExpect` -/

@[simp] theorem pushExpect_crc (e : Expectation) : (pushExpect e s).crc = s.crc := rfl
@[simp] theorem pushExpect_buf (e : Expectation) : (pushExpect e s).buf = s.buf := rfl
@[simp] theorem pushExpect_seq (e : Expectation) : (pushExpect e s).seq = s.seq := rfl
@[simp] theorem pushExpect_fsm (e : Expectation) : (pushExpect e s).fsm = s.fsm := rfl
@[simp] theorem pushExpect_writeAvail (e : Expectation) : (pushExpect e s).writeAvail = s.writeAvail := rfl
@[simp] theorem pushExpect_brkEn (e : Expectation) : (pushExpect e s).brkEn = s.brkEn := rfl
@[simp] theorem pushExpect_deviceId (e : Expectation) : (pushExpect e s).deviceId = s.deviceId := rfl
@[simp] theorem pushExpect_unlocked (e : Expectation) : (pushExpect e s).unlocked = s.unlocked := rfl
@[simp] theorem pushExpect_autoSpent (e : Expectation) : (pushExpect e s).autoSpent = s.autoSpent := rfl
@[simp] theorem pushExpect_expect (e : Expectation) : (pushExpect e s).expect = (if s.expect.length = Config.expectDepth then s.expect.drop 1 else s.expect) ++ [e] := rfl
@[simp] theorem pushExpect_defer (e : Expectation) : (pushExpect e s).defer = s.defer := rfl
@[simp] theorem pushExpect_snap (e : Expectation) : (pushExpect e s).snap = s.snap := rfl
@[simp] theorem pushExpect_port (e : Expectation) : (pushExpect e s).port = s.port := rfl
@[simp] theorem pushExpect_lookup (e : Expectation) : (pushExpect e s).lookup = s.lookup := rfl
@[simp] theorem pushExpect_result (e : Expectation) : (pushExpect e s).result = s.result := rfl
@[simp] theorem pushExpect_events (e : Expectation) : (pushExpect e s).events = s.events := rfl

/-! ### `bumpSeq` -/

@[simp] theorem bumpSeq_crc : (bumpSeq s).crc = s.crc := rfl
@[simp] theorem bumpSeq_buf : (bumpSeq s).buf = s.buf := rfl
@[simp] theorem bumpSeq_seq : (bumpSeq s).seq = s.seq + 1 := rfl
@[simp] theorem bumpSeq_fsm : (bumpSeq s).fsm = s.fsm := rfl
@[simp] theorem bumpSeq_writeAvail : (bumpSeq s).writeAvail = s.writeAvail := rfl
@[simp] theorem bumpSeq_brkEn : (bumpSeq s).brkEn = s.brkEn := rfl
@[simp] theorem bumpSeq_deviceId : (bumpSeq s).deviceId = s.deviceId := rfl
@[simp] theorem bumpSeq_unlocked : (bumpSeq s).unlocked = s.unlocked := rfl
@[simp] theorem bumpSeq_autoSpent : (bumpSeq s).autoSpent = s.autoSpent := rfl
@[simp] theorem bumpSeq_expect : (bumpSeq s).expect = s.expect := rfl
@[simp] theorem bumpSeq_defer : (bumpSeq s).defer = s.defer := rfl
@[simp] theorem bumpSeq_snap : (bumpSeq s).snap = s.snap := rfl
@[simp] theorem bumpSeq_port : (bumpSeq s).port = s.port := rfl
@[simp] theorem bumpSeq_lookup : (bumpSeq s).lookup = s.lookup := rfl
@[simp] theorem bumpSeq_result : (bumpSeq s).result = s.result := rfl
@[simp] theorem bumpSeq_events : (bumpSeq s).events = s.events := rfl

/-! ### `pushDefer` -/

@[simp] theorem pushDefer_crc (b : Bytes) : (pushDefer b s).crc = s.crc := rfl
@[simp] theorem pushDefer_buf (b : Bytes) : (pushDefer b s).buf = s.buf := rfl
@[simp] theorem pushDefer_seq (b : Bytes) : (pushDefer b s).seq = s.seq := rfl
@[simp] theorem pushDefer_fsm (b : Bytes) : (pushDefer b s).fsm = s.fsm := rfl
@[simp] theorem pushDefer_writeAvail (b : Bytes) : (pushDefer b s).writeAvail = s.writeAvail := rfl
@[simp] theorem pushDefer_brkEn (b : Bytes) : (pushDefer b s).brkEn = s.brkEn := rfl
@[simp] theorem pushDefer_deviceId (b : Bytes) : (pushDefer b s).deviceId = s.deviceId := rfl
@[simp] theorem pushDefer_unlocked (b : Bytes) : (pushDefer b s).unlocked = s.unlocked := rfl
@[simp] theorem pushDefer_autoSpent (b : Bytes) : (pushDefer b s).autoSpent = s.autoSpent := rfl
@[simp] theorem pushDefer_expect (b : Bytes) : (pushDefer b s).expect = s.expect := rfl
@[simp] theorem pushDefer_defer (b : Bytes) : (pushDefer b s).defer = s.defer ++ [b] := rfl
@[simp] theorem pushDefer_snap (b : Bytes) : (pushDefer b s).snap = s.snap := rfl
@[simp] theorem pushDefer_port (b : Bytes) : (pushDefer b s).port = s.port := rfl
@[simp] theorem pushDefer_lookup (b : Bytes) : (pushDefer b s).lookup = s.lookup := rfl
@[simp] theorem pushDefer_result (b : Bytes) : (pushDefer b s).result = s.result := rfl
@[simp] theorem pushDefer_events (b : Bytes) : (pushDefer b s).events = s.events := rfl

/-! ### `transmit` -/

@[simp] theorem transmit_crc (b : Bytes) : (transmit b s).crc = s.crc := rfl
@[simp] theorem transmit_buf (b : Bytes) : (transmit b s).buf = s.buf := rfl
@[simp] theorem transmit_seq (b : Bytes) : (transmit b s).seq = s.seq := rfl
@[simp] theorem transmit_fsm (b : Bytes) : (transmit b s).fsm = s.fsm := rfl
@[simp] theorem transmit_writeAvail (b : Bytes) : (transmit b s).writeAvail = s.writeAvail := rfl
@[simp] theorem transmit_brkEn (b : Bytes) : (transmit b s).brkEn = s.brkEn := rfl
@[simp] theorem transmit_deviceId (b : Bytes) : (transmit b s).deviceId = s.deviceId := rfl
@[simp] theorem transmit_unlocked (b : Bytes) : (transmit b s).unlocked = s.unlocked := rfl
@[simp] theorem transmit_autoSpent (b : Bytes) : (transmit b s).autoSpent = s.autoSpent := rfl
@[simp] theorem transmit_expect (b : Bytes) : (transmit b s).expect = s.expect := rfl
@[simp] theorem transmit_defer (b : Bytes) : (transmit b s).defer = s.defer := rfl
@[simp] theorem transmit_snap (b : Bytes) : (transmit b s).snap = s.snap := rfl
@[simp] theorem transmit_port (b : Bytes) : (transmit b s).port = s.port := rfl
@[simp] theorem transmit_lookup (b : Bytes) : (transmit b s).lookup = s.lookup := rfl
@[simp] theorem transmit_result (b : Bytes) : (transmit b s).result = s.result := rfl
@[simp] theorem transmit_events (b : Bytes) : (transmit b s).events = s.events ++ [.tx b, .logTx b] := by
  simp [transmit]

end Sys2Proof.Machine
end

