-- ==== Sys2Proof/Laws/Session.lean ====
section
/-! SUPPORT. Lemmas about the session's shared operations: everything each can do, said once. -/

namespace Sys2Proof.Machine

variable {P : Params}

/-- The frame `do_send` encodes (spec/43_session.md R171). -/
def sendBytes (P : Params) (c : Command) (payload : Bytes) (s : State) : Bytes :=
  encodeFrame P.crcInit (P.cmdCode c) s.seq payload s.brkEn

/-- The state once an accepted send has taken its expectation and its sequence number (R171). -/
def sendTaken (P : Params) (c : Command) (s : State) : State :=
  bumpSeq (pushExpect ⟨c, P.respCode c, s.seq⟩ s)

/-- Everything `do_send` can do (R171, R173): refuse a payload that is too long, refuse on a full queue, write the
frame, or defer it. -/
theorem doSend_cases (P : Params) (c : Command) (payload : Bytes) (s : State) :
    (Config.maxPayload < payload.length ∧
      doSend P c payload s = ⟨false, raise (.payloadTooLong payload.length) s⟩) ∨
    (payload.length ≤ Config.maxPayload ∧ s.writeAvail = false ∧ s.defer.length = Config.deferDepth ∧
      doSend P c payload s = ⟨false, raise (.deferOverflow c) s⟩) ∨
    (payload.length ≤ Config.maxPayload ∧ s.writeAvail = true ∧
      doSend P c payload s = ⟨true, transmit (sendBytes P c payload s) (sendTaken P c s)⟩) ∨
    (payload.length ≤ Config.maxPayload ∧ s.writeAvail = false ∧ s.defer.length ≠ Config.deferDepth ∧
      doSend P c payload s = ⟨true, pushDefer (sendBytes P c payload s) (sendTaken P c s)⟩) := by
  by_cases hl : payload.length > Config.maxPayload
  · exact .inl ⟨hl, by simp [doSend, hl]⟩
  · have hl' : payload.length ≤ Config.maxPayload := by omega
    cases hw : s.writeAvail
    · by_cases hd : s.defer.length = Config.deferDepth
      · exact .inr (.inl ⟨hl', rfl, hd, by simp [doSend, hl, hw, hd]⟩)
      · exact .inr (.inr (.inr ⟨hl', rfl, hd, by simp [doSend, hl, hw, hd, sendBytes, sendTaken]⟩))
    · exact .inr (.inr (.inl ⟨hl', rfl, by simp [doSend, hl, hw, sendBytes, sendTaken]⟩))

/-- What correlation takes is the oldest expectation with the response code; the others keep their order (R176). -/
theorem takeExpect_eq_some {r : Byte} {es others : List Expectation} {e : Expectation}
    (h : takeExpect r es = some (e, others)) :
    ∃ older newer, es = older ++ e :: newer ∧ others = older ++ newer ∧ e.resp = r ∧ ∀ x ∈ older, x.resp ≠ r := by
  induction es generalizing others with
  | nil => cases h
  | cons x rest ih =>
    unfold takeExpect at h
    split at h
    · rename_i hx
      obtain ⟨rfl, rfl⟩ : x = e ∧ rest = others := by simpa using h
      exact ⟨[], rest, rfl, rfl, hx, by simp⟩
    · rename_i hx
      split at h
      · cases h
      · rename_i y os hy
        obtain ⟨rfl, rfl⟩ : y = e ∧ x :: os = others := by simpa using h
        obtain ⟨older, newer, rfl, rfl, hr, hold⟩ := ih hy
        exact ⟨x :: older, newer, rfl, rfl, hr, by simpa [hx] using hold⟩

/-- Nothing is taken exactly when no expectation has the response code (R176). -/
theorem takeExpect_eq_none_iff {r : Byte} {es : List Expectation} :
    takeExpect r es = none ↔ ∀ e ∈ es, e.resp ≠ r := by
  induction es with
  | nil => simp [takeExpect]
  | cons x rest ih =>
    unfold takeExpect
    by_cases hx : x.resp = r
    · simp [hx]
    · cases h : takeExpect r rest with
      | none => simpa [hx] using ih.mp h
      | some p =>
        have := mt ih.mpr (by simp [h])
        simpa [hx] using this

/-- Correlation changes the expectation store and nothing else (R176). -/
theorem correlate_state (f : Frame) (s : State) :
    (correlate f s).2 = { s with expect := (correlate f s).2.expect } := by
  unfold correlate; split <;> rfl

/-- The expectations left by correlation are among those there were (R176). -/
theorem correlate_expect_sublist (f : Frame) (s : State) : (correlate f s).2.expect.Sublist s.expect := by
  unfold correlate
  split
  · exact List.Sublist.refl _
  · rename_i e others h
    obtain ⟨older, newer, h1, h2, -, -⟩ := takeExpect_eq_some h
    simp only [h1, h2]
    exact (List.sublist_cons_self e newer).append_left older

/-- Asking the host for a passcode changes its list of tables and nothing else (spec/00_scope.md R14). -/
theorem askPasscode_state (id : DeviceId) (s : State) :
    (askPasscode id s).2 = { s with lookup := (askPasscode id s).2.lookup } := by
  unfold askPasscode; split <;> rfl

/-- With one table in force, the host answers from it and it stays (R9). -/
theorem askPasscode_one {id : DeviceId} {s : State} {t : PasscodeTable} (h : s.lookup = [t]) :
    askPasscode id s = (List.lookup id t, s) := by
  simp [askPasscode, h]

/-- The events of a flushed queue: TX and LOG_TX for each frame, oldest first (R203). -/
def flushEvents : List Bytes → List Event
  | [] => []
  | b :: rest => .tx b :: .logTx b :: flushEvents rest

theorem foldl_transmit (bs : List Bytes) (s : State) :
    bs.foldl (fun t b => transmit b t) s = { s with events := s.events ++ flushEvents bs } := by
  induction bs generalizing s with
  | nil => simp [flushEvents]
  | cons b rest ih =>
    rw [List.foldl_cons, ih]
    simp only [transmit_events, flushEvents, List.append_assoc, List.cons_append, List.nil_append]
    rfl

/-- `flush` in one equation (R203). -/
theorem flush_eq (s : State) : flush s = { s with events := s.events ++ flushEvents s.defer, defer := [] } := by
  simp only [flush, foldl_transmit]

@[simp] theorem txBytes_flushEvents (bs : List Bytes) : txBytes (flushEvents bs) = bs := by
  induction bs with
  | nil => rfl
  | cons b rest ih => simp [flushEvents, txBytes, ih]

theorem txBytes_append (a b : List Event) : txBytes (a ++ b) = txBytes a ++ txBytes b := by
  induction a with
  | nil => rfl
  | cons e rest ih => cases e <;> simp [txBytes, ih]

/-- The automatic passcode send: the host has no passcode, or one that is no eight digits, or `do_send` decides
(R181). -/
theorem autoUnlock_cases (P : Params) (id : DeviceId) (s : State) :
    ((askPasscode id s).1 = none ∧ autoUnlock P id s = (askPasscode id s).2) ∨
    (∃ text, (askPasscode id s).1 = some text ∧ passenc P text = none ∧
      autoUnlock P id s = raise .validationPasscodeFormat (askPasscode id s).2) ∨
    (∃ text p, (askPasscode id s).1 = some text ∧ passenc P text = some p ∧
      autoUnlock P id s =
        (if (doSend P .passcode p (askPasscode id s).2).accepted
          then setAutoSpent true (doSend P .passcode p (askPasscode id s).2).state
          else (doSend P .passcode p (askPasscode id s).2).state)) := by
  unfold autoUnlock
  cases ha : askPasscode id s with
  | mk answer s1 =>
    cases answer with
    | none => exact .inl ⟨rfl, rfl⟩
    | some text =>
      cases hp : passenc P text with
      | none => exact .inr (.inl ⟨text, rfl, hp, by simp [hp]⟩)
      | some p => exact .inr (.inr ⟨text, p, rfl, hp, by simp [hp]⟩)

/-- The dispatch of a received frame, by its class (R175, R190). -/
theorem receive_cases (P : Params) (f : Frame) (now : Time) (s : State) :
    (classify P f.command = none ∧
      receive P f now s = emit (.logUnknownCmd f) (emit (.logRx f (correlate f s).1) (correlate f s).2)) ∨
    (∃ c, classify P f.command = some c ∧
      receive P f now s =
        handle P c (statusOf P f.payload) f now (emit (.logRx f (correlate f s).1) (correlate f s).2)) := by
  unfold receive
  cases h : classify P f.command with
  | none => exact .inl ⟨rfl, rfl⟩
  | some c => exact .inr ⟨c, rfl, rfl⟩

end Sys2Proof.Machine
end

