-- ==== Sys2Proof/Laws/Receive.lean ====
section
/-! SUPPORT. What no received frame touches: everything the handlers of a response can do leaves the checksum
accumulator, the buffer, the connection's settings, the port and the result as they were (spec/10_state.md R30, R32). -/

namespace Sys2Proof.Machine

/-- The fields that sending and receiving leave alone. -/
structure Keeps (s t : State) : Prop where
  crc : t.crc = s.crc
  buf : t.buf = s.buf
  writeAvail : t.writeAvail = s.writeAvail
  brkEn : t.brkEn = s.brkEn
  deviceId : t.deviceId = s.deviceId
  port : t.port = s.port
  result : t.result = s.result

theorem Keeps.refl (s : State) : Keeps s s := ⟨rfl, rfl, rfl, rfl, rfl, rfl, rfl⟩

theorem Keeps.trans {a b c : State} (h : Keeps a b) (g : Keeps b c) : Keeps a c :=
  ⟨g.crc.trans h.crc, g.buf.trans h.buf, g.writeAvail.trans h.writeAvail, g.brkEn.trans h.brkEn,
    g.deviceId.trans h.deviceId, g.port.trans h.port, g.result.trans h.result⟩

theorem emit_keeps (e : Event) (s : State) : Keeps s (emit e s) := ⟨rfl, rfl, rfl, rfl, rfl, rfl, rfl⟩

theorem raise_keeps (k : ErrorKind) (s : State) : Keeps s (raise k s) := ⟨rfl, rfl, rfl, rfl, rfl, rfl, rfl⟩

theorem setAutoSpent_keeps (b : Bool) (s : State) : Keeps s (setAutoSpent b s) := ⟨rfl, rfl, rfl, rfl, rfl, rfl, rfl⟩

theorem correlate_keeps (f : Frame) (s : State) : Keeps s (correlate f s).2 := by
  rw [correlate_state]; exact ⟨rfl, rfl, rfl, rfl, rfl, rfl, rfl⟩

theorem askPasscode_keeps (id : DeviceId) (s : State) : Keeps s (askPasscode id s).2 := by
  rw [askPasscode_state]; exact ⟨rfl, rfl, rfl, rfl, rfl, rfl, rfl⟩

theorem doSend_keeps (P : Params) (c : Command) (p : Bytes) (s : State) : Keeps s (doSend P c p s).state := by
  rcases doSend_cases P c p s with ⟨-, h⟩ | ⟨-, -, -, h⟩ | ⟨-, -, h⟩ | ⟨-, -, -, h⟩ <;> rw [h] <;>
    exact ⟨rfl, rfl, rfl, rfl, rfl, rfl, rfl⟩

theorem autoUnlock_keeps (P : Params) (id : DeviceId) (s : State) : Keeps s (autoUnlock P id s) := by
  rcases autoUnlock_cases P id s with ⟨-, h⟩ | ⟨-, -, -, h⟩ | ⟨-, p, -, -, h⟩ <;> rw [h]
  · exact askPasscode_keeps id s
  · exact (askPasscode_keeps id s).trans (raise_keeps _ _)
  · have hs := (askPasscode_keeps id s).trans (doSend_keeps P .passcode p (askPasscode id s).2)
    split
    · exact hs.trans (setAutoSpent_keeps _ _)
    · exact hs

theorem onSecurityRefusal_keeps (P : Params) (s : State) : Keeps s (onSecurityRefusal P s) := by
  have hs : Keeps s (emit .securityNeeded (setFsm s.fsm.onSecurityRefusal (setUnlocked false s))) :=
    ⟨rfl, rfl, rfl, rfl, rfl, rfl, rfl⟩
  unfold onSecurityRefusal
  dsimp only
  split
  · exact hs
  · split
    · exact hs
    · exact hs.trans (autoUnlock_keeps P _ _)

theorem onWrite_keeps (P : Params) (c : Command) (st : Status) (s : State) : Keeps s (onWrite P c st s) := by
  cases st <;> first | exact doSend_keeps _ _ _ _ | exact ⟨rfl, rfl, rfl, rfl, rfl, rfl, rfl⟩

theorem handle_keeps (P : Params) (c : Command) (st : Status) (f : Frame) (now : Time) (s : State) :
    Keeps s (handle P c st f now s) := by
  cases c
  · cases st <;> simp only [handle, onCurrentValue]
    · unfold onCurrentAck; split <;> exact ⟨rfl, rfl, rfl, rfl, rfl, rfl, rfl⟩
    · split
      · exact onSecurityRefusal_keeps P s
      · exact raise_keeps _ _
    all_goals exact emit_keeps _ _
  · cases st <;> simp only [handle, onRecordingSettings]
    · unfold onSettingsAck; split <;> exact ⟨rfl, rfl, rfl, rfl, rfl, rfl, rfl⟩
    all_goals exact ⟨rfl, rfl, rfl, rfl, rfl, rfl, rfl⟩
  · cases st <;> exact ⟨rfl, rfl, rfl, rfl, rfl, rfl, rfl⟩
  all_goals exact onWrite_keeps P _ st s

/-- A received frame leaves these fields alone (R175). -/
theorem receive_keeps (P : Params) (f : Frame) (now : Time) (s : State) : Keeps s (receive P f now s) := by
  have hc : Keeps s (emit (.logRx f (correlate f s).1) (correlate f s).2) :=
    (correlate_keeps f s).trans (emit_keeps _ _)
  rcases receive_cases P f now s with ⟨-, h⟩ | ⟨c, -, h⟩ <;> rw [h]
  · exact hc.trans (emit_keeps _ _)
  · exact hc.trans (handle_keeps P c _ f now _)

/-- So do the frames of one notification (R160). -/
theorem receiveAll_keeps (P : Params) (now : Time) (fs : List Frame) (s : State) : Keeps s (receiveAll P now fs s) := by
  induction fs generalizing s with
  | nil => exact Keeps.refl s
  | cons f fs ih => exact ((emit_keeps (.arrival now) s).trans (receive_keeps P f now _)).trans (ih _)

/-- FA.APPEND and WPE.NOTIFY leave the buffer in its canonical form (R36). -/
theorem Memory.wf_wpeNotify (P : Params) (chunk : Bytes) (now : Time) (s : State) :
    Memory.wf (wpeNotifyWith P chunk now s).buf = true := by
  have h := (receiveAll_keeps P now (assemble P chunk (begin s)).1 (assemble P chunk (begin s)).2).buf
  show Memory.wf (receiveAll P now (assemble P chunk (begin s)).1 (assemble P chunk (begin s)).2).buf = true
  rw [h]
  exact extract_wf _ _

end Sys2Proof.Machine
end

