-- ==== Sys2Proof/Tests/Slice0.lean ====
section
/-! SUPPORT. The model's own tests: what well-formedness refuses, decoding of words written out from the encoding
tables, one step of each instruction, and a witness for each statement that has hypotheses. Expected values come from
spec/95_test_vectors.md, whose vector ids the comments name, under its example parameter set E. -/

namespace Sys2Proof.Tests

open Sys2Proof.Machine

/-- A payload of zeros, and its length. -/
def zeros (n : Nat) : Bytes := List.replicate n 0

theorem zeros_length (n : Nat) : (zeros n).length = n := List.length_replicate

theorem zeros_fit : (zeros 65535).length ≤ 65535 := (zeros_length 65535).le

theorem zeros_too_long : 65535 < (zeros 65536).length := (zeros_length 65536).symm ▸ Nat.lt_succ_self 65535

theorem frame_wf (p : Bytes) : (Instr.frame 0 0 p 0).wf = decide (p.length ≤ 65535) := rfl

/-! ### Well-formedness refuses -/

theorem test_wf_refuses_long_frame_operand : (Instr.csRecv ⟨0, 0, 65536, [], 0⟩ ⟨0⟩).wf = false := by decide
theorem test_wf_refuses_code_in_table : (Instr.illegalOp 0x47).wf = false := by decide
theorem test_wf_refuses_digit_ten : (Instr.passcode 0 0 0 0 0 0 0 10).wf = false := by decide
theorem test_wf_refuses_long_wire_payload : (Instr.frame 0 0 (zeros 65536) 0).wf = false :=
  (frame_wf _).trans (decide_eq_false (Nat.not_le.mpr zeros_too_long))
theorem test_wf_accepts_bounds :
    (Instr.csRecv ⟨0, 0, 65535, [], 0⟩ ⟨0⟩).wf = true ∧ (Instr.illegalOp 0x48).wf = true ∧
    (Instr.passcode 9 9 9 9 9 9 9 9).wf = true ∧ (Instr.frame 0 0 (zeros 65535) 0).wf = true := by
  exact ⟨by decide, by decide, by decide, (frame_wf _).trans (decide_eq_true zeros_fit)⟩

/-! ### Decoding of written words (R95: op[7:4] is the unit, op[3:0] the function) -/

theorem test_decode_block : decode (.op 0b0000_0000 []) = .ok .wpeReset ∧
    decode (.op 0b0000_0001 [.bytes [0xAA], .time ⟨5⟩]) = .ok (.wpeNotify [0xAA] ⟨5⟩) := ⟨rfl, rfl⟩
theorem test_decode_crcu : decode (.op 0b0001_0000 []) = .ok .crcInit ∧
    decode (.op 0b0001_0001 [.byte 0x76]) = .ok (.crcUpdate 0x76) ∧
    decode (.op 0b0001_0010 []) = .ok .crcRead ∧
    decode (.op 0b0001_0011 [.bytes [1, 2]]) = .ok (.crcBlock [1, 2]) := ⟨rfl, rfl, rfl, rfl⟩
theorem test_decode_fcu :
    decode (.op 0b0010_0000 [.byte 0x33, .byte 0x05, .bytes [], .bit 0]) = .ok (.fcEncode 0x33 0x05 [] false) ∧
    decode (.op 0b0010_0001 [.bytes [9]]) = .ok (.fcDecode [9]) := ⟨rfl, rfl⟩
theorem test_decode_fau : decode (.op 0b0011_0000 [.bytes [7]]) = .ok (.faAppend [7]) ∧
    decode (.op 0b0011_0001 []) = .ok .faReset := ⟨rfl, rfl⟩
theorem test_decode_crs :
    decode (.op 0b0100_0000 [.cls 2, .bytes [1]]) = .ok (.csSend 2 [1]) ∧
    decode (.op 0b0100_0001 [.frame ⟨1, 2, 1, [3], 4⟩, .time ⟨5⟩]) = .ok (.csRecv ⟨1, 2, 1, [3], 4⟩ ⟨5⟩) ∧
    decode (.op 0b0100_0010 [.ident ⟨3⟩, .bit 1]) = .ok (.csConnect ⟨3⟩ true) ∧
    decode (.op 0b0100_0011 [.bit 1]) = .ok (.csChannel true) ∧
    decode (.op 0b0100_0100 [.pstate 1]) = .ok (.csPollstate .streaming) ∧
    decode (.op 0b0100_0101 []) = .ok .csDisconnect ∧
    decode (.op 0b0100_0110 [.text ['1', '2']]) = .ok (.csPassenc ['1', '2']) ∧
    decode (.op 0b0100_0111 [.text ['1', '2']]) = .ok (.csUnlock ['1', '2']) := ⟨rfl, rfl, rfl, rfl, rfl, rfl, rfl, rfl⟩
theorem test_decode_illegal : decode (.op 0x02 [.byte 1]) = .ok (.illegalOp 0x02) ∧
    decode (.op 0xFF []) = .ok (.illegalOp 0xFF) := ⟨rfl, rfl⟩
theorem test_decode_operand_types_rejected : decode (.op 0x11 []) = .error (.operandTypes .crcUpdate) ∧
    decode (.op 0x41 [.frame ⟨0, 0, 65536, [], 0⟩, .time ⟨0⟩]) = .error .frameLength ∧
    decode (.passcodePayload [0x7A, 0x97, 0x61, 0x67]) = .error .notAPasscode := ⟨rfl, rfl, by decide⟩
/-- E2, X12, and a status and a command byte. -/
theorem test_decode_formats :
    decode (.wireFrame [0x01, 0x33, 0x00, 0x04, 0x00, 0x00, 0x00, 0x00, 0x00, 0x63, 0x2B]) =
      .ok (.frame 0x33 0x00 [0x00, 0x00, 0x00, 0x00] 0x632B) ∧
    decode (.wireFrame [0x01, 0x33, 0x00, 0x04, 0x00, 0x00, 0x00, 0x00, 0x00, 0x63]) = .error .notAWireFrame ∧
    decode (.passcodePayload [0x74, 0x97, 0x61, 0x67]) = .ok (.passcode 7 4 9 7 6 1 6 7) ∧
    decode (.statusByte [0x10]) = .ok (.status [0x10]) ∧ decode (.cmdByte 0x33) = .ok (.commandClass 0x33) :=
  ⟨by decide, by decide, by decide, rfl, rfl⟩
theorem test_table_words :
    decodeTableWord 8 0x00 = some .wpeReset ∧ decodeTableWord 8 0x13 = some (.crcBlock []) ∧
    decodeTableWord 8 0x42 = some (.csConnect ⟨0⟩ false) ∧ decodeTableWord 8 0x48 = some (.illegalOp 0x48) ∧
    decodeTableWord 32 0x67619774 = some (.passcode 7 4 9 7 6 1 6 7) ∧
    decodeTableWord 56 0x51AA0000000001 = some (.frame 0x00 0x00 [] 0xAA51) :=
  ⟨by decide, by decide, by decide, by decide, by decide, by decide⟩
theorem test_step_runs_table_word (w : Nat) (h : w = 0x45) :
    step (State.reset.withFetchWord 8 w) = exec .csDisconnect State.reset := by subst h; rfl

/-! ### Parameter set E of spec/95_test_vectors.md, and its start state S0 -/

def codeE : Command → Byte
  | .currentValue => 0x33
  | .recordingSettings => 0x34
  | .settingsWrite => 0x35
  | .start => 0x36
  | .stop => 0x37
  | .passcode => 0x76

def setE : Params where
  crcInit := 0x0000
  cmdCode := codeE
  respCode := codeE
  statusBusy := 0x02
  refuses b := b == 0x01 || b == 0x10
  reasonLocked := 0x10
  decodeCurrent
    | _ :: ch :: lo :: hi :: fl :: _ => some ⟨some ch.toNat, ⟨le16 lo hi⟩, fl.getLsbD 0, fl.getLsbD 1, none⟩
    | _ => none
  decodeSettings
    | _ :: lo :: hi :: m :: fl :: _ => some ⟨le16 lo hi, m.toNat, fl.getLsbD 0⟩
    | _ => none
  settingsReadPayload := []
  packing := .packedBcd

def dev : DeviceId := ⟨1⟩
def code1 : Text := ['7', '4', '9', '7', '6', '1', '6', '7']

def s0 : State :=
  { State.reset with fsm := .ready, writeAvail := true, deviceId := some dev, lookup := [[(dev, code1)]] }

def rx (cmd seq : Byte) (payload : Bytes) : Frame := ⟨cmd, seq, payload.length, payload, 0⟩

def f1 : Bytes := [0x01, 0x33, 0x00, 0x04, 0x00, 0x00, 0x00, 0x00, 0x00, 0x63, 0x2B]
def f2 : Bytes := [0x01, 0x76, 0x00, 0x04, 0x00, 0x78, 0x56, 0x34, 0x12, 0x0D, 0xBF]
def frame1 : Frame := ⟨0x33, 0x00, 4, [0x00, 0x00, 0x00, 0x00], 0x632B⟩
def frame2 : Frame := ⟨0x76, 0x00, 4, [0x78, 0x56, 0x34, 0x12], 0x0DBF⟩

/-! ### One step of each instruction -/

/-- X1 (K11), with both initial values. -/
theorem test_crc_vector_x1 : crc16 0x0000 (f2.take 9) = 0x0DBF ∧ crc16 0xFFFF (f2.take 9) = 0x15CD := by decide +kernel
/-- X2. -/
theorem test_crc_vector_x2 : (crcBlockWith setE (f1.take 9) s0).result = .value 0x632B := by decide +kernel
/-- K32. -/
theorem test_crc_update : crcStep 0x1021 0x76 = 0x2D60 := by decide +kernel
/-- E3: the break byte first and outside the checksum. -/
theorem test_encode_break :
    (fcEncodeWith setE 0x33 0x00 [0, 0, 0, 0] true s0).result = .bytes (0x00 :: f1) := by decide +kernel
/-- E6. -/
theorem test_encode_ff : encodeFrame 0x0000 0xFF 0xFF [0x01] false = [0x01, 0xFF, 0xFF, 0x01, 0x00, 0x01, 0x73, 0xBD] := by
  decide +kernel
/-- D9: one byte too many. -/
theorem test_decode_trailing : (fcDecodeWith setE (f1 ++ [0x00]) s0).result = .decoded none := by decide +kernel
/-- D15. -/
theorem test_decode_unknown_command :
    (fcDecodeWith setE [0x01, 0x99, 0x07, 0x01, 0x00, 0xAB, 0xA9, 0xCA] s0).result =
      .decoded (some ⟨0x99, 0x07, 1, [0xAB], 0xA9CA⟩) := by decide +kernel
/-- A4: noise between two frames. -/
theorem test_append_resynchronises :
    (faAppendWith setE (f1 ++ [0xEE] ++ f2) s0).result = .frames [frame1, frame2] := by decide +kernel
/-- A11: a real frame inside a false candidate. -/
theorem test_append_false_candidate :
    extract 0x0000 ([0x01, 0x33, 0x00, 0x07, 0x00] ++ [0x01, 0x00, 0x00, 0x00, 0x00, 0xAA, 0x51] ++ [0x00, 0x00]) =
      ⟨[⟨0x00, 0x00, 0, [], 0xAA51⟩],
        [[0x01, 0x33, 0x00, 0x07, 0x00, 0x01, 0x00, 0x00, 0x00, 0x00, 0xAA, 0x51, 0x00, 0x00]], [0x00, 0x00]⟩ := by
  decide +kernel
/-- A12. -/
theorem test_fa_reset : exec .faReset { s0 with buf := [0x01, 0x33] } = .next s0 := rfl
/-- Program P3, step 10: the second part of a passcode response. -/
theorem test_notify_unlocks :
    (wpeNotifyWith setE [0x00, 0xD4, 0x27] ⟨4⟩
        { s0 with buf := [0x01, 0x76, 0x01, 0x01, 0x00], fsm := .securityLocked, autoSpent := true,
                  expect := [⟨.passcode, 0x76, 0x01⟩] }).events =
      [.arrival ⟨4⟩, .logRx ⟨0x76, 0x01, 1, [0x00], 0xD427⟩ (.solicited .passcode 0x01 true), .unlocked, .pollStart] := by
  decide +kernel
/-- T1. -/
theorem test_send : csSendWith setE 0 [0, 0, 0, 0] s0 =
    { s0 with seq := 1, expect := [⟨.currentValue, 0x33, 0x00⟩], events := [.tx f1, .logTx f1] } := by decide +kernel
/-- T4: the counter wraps. -/
theorem test_send_wraps : (csSendWith setE 5 [] { s0 with seq := 0xFF }).seq = 0x00 := by decide +kernel
/-- V1. -/
theorem test_recv_reading : (csRecvWith setE (rx 0x33 0x09 [0x00, 0x02, 0xF3, 0x00, 0x03]) ⟨7⟩ s0).events =
    [.logRx (rx 0x33 0x09 [0x00, 0x02, 0xF3, 0x00, 0x03]) .unsolicited, .reading ⟨⟨7⟩, some 2, ⟨243⟩, none⟩,
     .snapshot ⟨none, none, some true, some true, none⟩] := by decide +kernel
/-- V4: the automatic passcode send. -/
theorem test_recv_security_refusal : csRecvWith setE (rx 0x33 0x00 [0x10]) ⟨7⟩ s0 =
    { s0 with
      fsm := .securityLocked, autoSpent := true, seq := 1, expect := [⟨.passcode, 0x76, 0x00⟩]
      events := [.logRx (rx 0x33 0x00 [0x10]) .unsolicited, .securityNeeded,
        .tx [0x01, 0x76, 0x00, 0x04, 0x00, 0x74, 0x97, 0x61, 0x67, 0x8C, 0x32],
        .logTx [0x01, 0x76, 0x00, 0x04, 0x00, 0x74, 0x97, 0x61, 0x67, 0x8C, 0x32]] } := by decide +kernel
/-- Section 5.5, IllegalState. -/
theorem test_connect_twice : exec (.csConnect ⟨2⟩ true) s0 =
    .next { s0 with events := [.error (.illegalState .csConnect .ready)] } := rfl
/-- T6: the deferred frame goes out. -/
theorem test_channel_flushes : exec (.csChannel true) { s0 with writeAvail := false, defer := [f1] } =
    .next { s0 with events := [.tx f1, .logTx f1] } := rfl
/-- Y7. -/
theorem test_pollstate_locked : exec (.csPollstate .polling) { s0 with fsm := .securityLocked } =
    .next { s0 with fsm := .securityLocked } := rfl
/-- R208: `crc` stays. -/
theorem test_disconnect : exec .csDisconnect { s0 with crc := 7 } =
    .next { State.reset with crc := 7, fsm := .disconnected, lookup := s0.lookup } := rfl
/-- R290. -/
theorem test_reset : exec .wpeReset { s0 with crc := 7, buf := [1] } = .next { State.reset with lookup := s0.lookup } := rfl
/-- Q1, Q10, Q12. -/
theorem test_passenc : passenc setE code1 = some [0x74, 0x97, 0x61, 0x67] ∧
    passenc setE ['1', '2', '3', '4', '5', '6', '7', 'a'] = none ∧
    passenc setE (List.replicate 8 (Char.ofNat 0xFF11)) = none := by decide
/-- T2. -/
theorem test_unlock : (csUnlockWith setE ['1', '2', '3', '4', '5', '6', '7', '8'] s0).events =
    [.tx [0x01, 0x76, 0x00, 0x04, 0x00, 0x12, 0x34, 0x56, 0x78, 0x69, 0x69],
     .logTx [0x01, 0x76, 0x00, 0x04, 0x00, 0x12, 0x34, 0x56, 0x78, 0x69, 0x69]] := by decide +kernel
/-- R96. -/
theorem test_illegal_op : exec (.illegalOp 0x99) s0 = .next { s0 with events := [.error (.illegalOp 0x99)] } := rfl
/-- D3 and D12, as presented frames. -/
theorem test_frame_row : (frameWith setE 0x76 0x00 [0x78, 0x56, 0x34, 0x12] 0x0DBF s0).result = .decoded (some frame2) ∧
    (frameWith setE 0x33 0x00 [0, 0, 0, 0] 0x632A s0).result = .decoded none := by decide +kernel
/-- V9 to V12: the statuses of set E. -/
theorem test_status_row : [[0x00], [0x02], [0x01], [0x10], [0x7F], []].map (statusOf setE) =
    [.ack, .busy, .refuse 0x01, .refuse 0x10, .unknown 0x7F, .missing] := by decide
/-- X12. -/
theorem test_passcode_row : (passcodeWith setE [7, 4, 9, 7, 6, 1, 6, 7] s0).result = .bytes [0x74, 0x97, 0x61, 0x67] := by
  decide
/-- The codes of set E, and an unknown one (V27). -/
theorem test_command_class_row : [0x33, 0x34, 0x76, 0x35, 0x36, 0x37, 0x00].map (classify setE) =
    [some .currentValue, some .recordingSettings, some .passcode, some .settingsWrite, some .start, some .stop, none] := by
  decide
/-- X10: two seconds at 250 ms, four arrivals a tick. -/
theorem test_polling_stops :
    (pollRun [.arrival 0, .arrival (1/4), .arrival (2/4), .arrival (3/4), .tick, .arrival 1, .arrival (5/4),
        .arrival (6/4), .arrival (7/4), .tick] { PollingMetrics.initial with running := true }).2 =
      [.stopPolling, .startTimer .window] := by rfl
/-- X11, at 1000 ms, after the window expired, with a write channel. -/
theorem test_polling_resumes :
    (pollRun [.windowExpired, .arrival 5, .tick, .arrival 6, .tick]
        { PollingMetrics.initial with windowOpen := true, channel := true }).2 = [.startPolling] := by rfl

/-- R236: a start request inside the window without a channel is kept and honoured when the channel comes. -/
theorem test_polling_start_in_window_is_kept :
    (pollRun [.startRequest, .channel true] { PollingMetrics.initial with windowOpen := true }).2 = [.startPolling] := by
  simp [pollRun, pollStep, startPolling, PollingMetrics.initial]

/-! ### Witnesses: a state and operands that meet all hypotheses of a statement, at the bounds of its clauses -/

theorem witness_CrcUpdateAbsorbsByte : State.reset.crc = 0x0000 := rfl

theorem witness_EncodeWritesFrameLayout :
    (zeros 65535).length ≤ 65535 ∧ 65535 < (zeros 65536).length := ⟨zeros_fit, zeros_too_long⟩

theorem witness_CodecRoundTrip :
    (∃ t b, ([] : Bytes).length ≤ 65535 ∧ exec (.fcEncode 0x00 0x00 [] false) s0 = .next t ∧ t.result = .bytes b) ∧
    (∃ t b, (zeros 65535).length ≤ 65535 ∧
      exec (.fcEncode 0xFF 0xFF (zeros 65535) false) s0 = .next t ∧ t.result = .bytes b) ∧
    (∃ t, exec (.fcDecode f1) s0 = .next t ∧ t.result = .decoded (some frame1)) := by
  refine ⟨⟨_, _, by simp, rfl, rfl⟩, ⟨_, encodeFrame 0x0000 0xFF 0xFF (zeros 65535) false, zeros_fit, rfl, ?_⟩,
    ⟨_, rfl, by decide +kernel⟩⟩
  have h : ¬ (zeros 65535).length > Config.maxPayload := Nat.not_lt.mpr zeros_fit
  unfold fcEncodeWith
  rw [if_neg h]
  rfl

theorem witness_BreakByteMakesDecodeNil : (0x00 : Byte) ≠ 0x01 ∧ (0x02 : Byte) ≠ 0x01 ∧ ([] : Bytes).length ≤ 65535 ∧
    (zeros 65535).length ≤ 65535 := by
  exact ⟨by decide, by decide, by simp, zeros_fit⟩

theorem witness_ReturnedFramesAreConsistent :
    ∃ t, exec (.faAppend f1) s0 = .next t ∧ frame1 ∈ resultFrames t.result := ⟨_, rfl, by decide +kernel⟩

theorem witness_SingleByteCorruptionDetected : decodeFrame 0x0000 f1 = some frame1 ∧
    (0 < f1.length ∧ f1[0]? ≠ some 0x00) ∧ (3 < f1.length ∧ f1[3]? ≠ some 0x05) ∧
    (10 < f1.length ∧ f1[10]? ≠ some 0x2A) := by decide +kernel

theorem witness_AppendAnswersExtraction : State.reset.buf = [] := rfl

theorem witness_ExtractFollowsBoundaryDetector :
    (([] : Bytes).length < 7 ∧ ([0, 0, 0, 0, 0, 0] : Bytes).length < 7) ∧
    (7 ≤ ((0x02 : Byte) :: [0, 0, 0, 0, 0, 0]).length ∧ (0x02 : Byte) ≠ 0x01) ∧
    (2 ≤ ([0, 0] : Bytes).length ∧ ([0, 0] : Bytes).length < (0x01 : Byte).toNat + 256 * (0x00 : Byte).toNat + 2) ∧
    ((0x00 : Byte).toNat + 256 * (0x00 : Byte).toNat + 2 ≤ ([0, 0] : Bytes).length) := by decide

theorem witness_AssemblerSettlesBuffer :
    (∃ t, ((∃ c, Instr.faAppend f1 = .faAppend c) ∨ (∃ c n, Instr.faAppend f1 = .wpeNotify c n) ∨
        Instr.faAppend f1 = .faReset) ∧ exec (.faAppend f1) s0 = .next t) ∧
    (∃ t, exec (.wpeNotify f1 ⟨0⟩) s0 = .next t) ∧ ∃ t, exec .faReset s0 = .next t :=
  ⟨⟨_, .inl ⟨_, rfl⟩, rfl⟩, ⟨_, rfl⟩, ⟨_, rfl⟩⟩

theorem witness_ByteSerialIngestEqualsWholeChunk : Memory.wf [] = true ∧
    Memory.wf (0x01 :: 0x00 :: 0x00 :: 0xFF :: 0xFF :: List.replicate 65536 0) = true := by
  refine ⟨rfl, ?_⟩
  simp only [Memory.wf, Config.soh, Config.hdrLen, Config.crcLen, Config.minFrame, le16, List.length_cons,
    List.length_replicate, beq_self_eq_true, Bool.true_and, Bool.or_eq_true, decide_eq_true_eq]
  decide

theorem witness_FragmentedFrameComesOutOnce : frameValid 0x0000 frame1 = true ∧ State.reset.buf = [] ∧
    Frame.wire frame1 = [] ++ f1 ∧ f1 ≠ [] ∧ Frame.wire frame1 = f1.take 10 ++ [0x2B] ∧ ([0x2B] : Bytes) ≠ [] := by
  decide +kernel

theorem witness_NoiseByteBetweenFramesIsDropped : frameValid 0x0000 frame1 = true ∧ frameValid 0x0000 frame2 = true ∧
    State.reset.buf = [] ∧ (0x00 : Byte) ≠ 0x01 ∧ (0x02 : Byte) ≠ 0x01 := by decide +kernel

theorem witness_AppendCutsStreamIntoFrames : ∃ t, exec (.faAppend (f1 ++ [0xEE] ++ f2)) s0 = .next t := ⟨_, rfl⟩

theorem witness_AssemblerResetEmptiesBuffer :
    ({ State.reset with buf := [0x01, 0x33, 0x00, 0x04] } : State).buf = [0x01, 0x33, 0x00, 0x04] := rfl

theorem witness_SendWritesFrame : ([] : Bytes).length ≤ 65535 ∧ (zeros 65535).length ≤ 65535 ∧
    s0.writeAvail = true := ⟨by simp, zeros_fit, rfl⟩

theorem witness_SendDefersWithoutChannel : (zeros 65535).length ≤ 65535 ∧
    State.reset.writeAvail = false ∧ State.reset.defer.length ≠ 8 ∧
    ({ State.reset with defer := List.replicate 7 f1 } : State).defer.length ≠ 8 := by
  exact ⟨zeros_fit, rfl, by decide, by decide⟩

theorem witness_SendRefusalsChangeNothing : 65535 < (zeros 65536).length ∧
    (zeros 65535).length ≤ 65535 ∧ State.reset.writeAvail = false ∧
    ({ State.reset with defer := List.replicate 8 f1 } : State).defer.length = 8 := by
  exact ⟨zeros_too_long, zeros_fit, rfl, by decide⟩

theorem witness_UnlockValidatesThenSends : passenc Config.wpe code1 = some [0x74, 0x97, 0x61, 0x67] ∧
    s0.writeAvail = true ∧ passenc Config.wpe [] = none := by decide

theorem witness_PassencTakesExactlyEightDigits :
    (List.replicate 7 '0').length ≠ 8 ∧ (List.replicate 9 '0').length ≠ 8 ∧
    (∃ ch ∈ ('/' :: List.replicate 7 '0'), ch.toNat < 0x30 ∨ 0x39 < ch.toNat) ∧
    (∃ ch ∈ (':' :: List.replicate 7 '9'), ch.toNat < 0x30 ∨ 0x39 < ch.toNat) := by
  refine ⟨by decide, by decide, ⟨'/', by decide, by decide⟩, ⟨':', by decide, by decide⟩⟩

theorem witness_PasscodeBytesDetermineText : passenc Config.wpe code1 = some [0x74, 0x97, 0x61, 0x67] := by decide

theorem witness_ReceiveCorrelatesOldestExpectation :
    (∃ s : State, s.expect = [⟨.stop, 0x37, 0x00⟩] ++ ⟨.start, 0x36, 0x01⟩ :: [⟨.start, 0x36, 0x02⟩] ∧
      (⟨.start, 0x36, 0x01⟩ : Expectation).resp = (rx 0x36 0x01 []).command ∧
      ∀ x ∈ [(⟨.stop, 0x37, 0x00⟩ : Expectation)], x.resp ≠ (rx 0x36 0x01 []).command) ∧
    ∀ x ∈ State.reset.expect, x.resp ≠ (rx 0x36 0x01 []).command := by
  refine ⟨⟨{ State.reset with expect := [⟨.stop, 0x37, 0x00⟩, ⟨.start, 0x36, 0x01⟩, ⟨.start, 0x36, 0x02⟩] }, rfl, rfl, ?_⟩, ?_⟩
  · decide
  · decide

/-- A connecting session with one frame deferred. -/
def connecting : State :=
  { State.reset with
    fsm := .awaitingCharacteristics
    deviceId := some dev
    seq := 0x01
    expect := [⟨.start, Config.wpe.respCode .start, 0x00⟩]
    defer := [encodeFrame 0x0000 (Config.wpe.cmdCode .start) 0x00 [] false] }

theorem witness_inv : Inv connecting where
  buf := rfl
  expectDepth := by decide
  expectResp := by simp [connecting]
  deferDepth := by decide
  deferFrames := ⟨⟨.start, [], false, by decide, rfl⟩, trivial⟩
  flushed := fun h => by cases h
  offline := fun h => by cases h
  online := fun _ h => by cases h
  awaiting := fun _ => rfl
  locked := fun h => by cases h

theorem witness_UnknownCommandIsLoggedOnly :
    Inv connecting ∧ ∀ c, Config.wpe.respCode c ≠ (rx (Config.respPermutation 6) 0x00 []).command := by
  refine ⟨witness_inv, fun c h => ?_⟩
  have := Config.respPermutation.injective h
  cases c <;> exact absurd this (by decide)

/-- A response of a class with a payload, under this hardware's free codes. -/
def reply (c : Command) (payload : Bytes) : Frame := rx (Config.wpe.respCode c) 0x00 payload

theorem witness_CurrentValueAckEmitsReading :
    (reply .currentValue [0x00]).command = Config.wpe.respCode .currentValue ∧
    (reply .currentValue [0x00]).payload = 0x00 :: [] := ⟨rfl, rfl⟩

theorem witness_CurrentValueOtherStatus :
    (reply .currentValue []).command = Config.wpe.respCode .currentValue ∧
    statusOf Config.wpe (reply .currentValue []).payload ≠ .ack ∧
    statusOf Config.wpe (reply .currentValue []).payload ≠ .refuse Config.wpe.reasonLocked := by
  refine ⟨rfl, ?_, ?_⟩ <;> exact fun h => by cases h

theorem witness_SecurityRefusalLocksSession :
    (reply .currentValue [Config.wpe.reasonLocked]).command = Config.wpe.respCode .currentValue ∧
    (reply .currentValue [Config.wpe.reasonLocked]).payload = Config.wpe.reasonLocked :: [] ∧
    ({ s0 with autoSpent := true } : State).autoSpent = true ∧ State.reset.deviceId = none := ⟨rfl, rfl, rfl, rfl⟩

theorem witness_SecurityRefusalSendsKnownPasscode :
    (reply .currentValue [Config.wpe.reasonLocked]).command = Config.wpe.respCode .currentValue ∧
    (reply .currentValue [Config.wpe.reasonLocked]).payload = Config.wpe.reasonLocked :: [] ∧
    s0.autoSpent = false ∧ s0.deviceId = some dev ∧ s0.writeAvail = true ∧
    (askPasscode dev s0).1 = some code1 ∧ passenc Config.wpe code1 = some [0x74, 0x97, 0x61, 0x67] := by
  refine ⟨rfl, rfl, rfl, rfl, rfl, by decide, by decide⟩

/-- A state without a channel in which the host answers as given. -/
def sAsk (lookup : List PasscodeTable) (defer : List Bytes) : State :=
  { s0 with writeAvail := false, lookup := lookup, defer := defer }

theorem witness_SecurityRefusalWithoutTransmission :
    ((reply .currentValue [Config.wpe.reasonLocked]).command = Config.wpe.respCode .currentValue ∧
      (reply .currentValue [Config.wpe.reasonLocked]).payload = Config.wpe.reasonLocked :: []) ∧
    ((sAsk [] []).autoSpent = false ∧ (sAsk [] []).deviceId = some dev ∧ (askPasscode dev (sAsk [] [])).1 = none) ∧
    ((askPasscode dev (sAsk [[(dev, ['1', '2'])]] [])).1 = some ['1', '2'] ∧ passenc Config.wpe ['1', '2'] = none) ∧
    ((askPasscode dev (sAsk [[(dev, code1)], []] [])).1 = some code1 ∧
      passenc Config.wpe code1 = some [0x74, 0x97, 0x61, 0x67] ∧ (sAsk [[(dev, code1)], []] []).writeAvail = false ∧
      (sAsk [[(dev, code1)]] (List.replicate 8 f1)).defer.length = 8) := by
  refine ⟨⟨rfl, rfl⟩, ⟨rfl, rfl, by decide⟩, ⟨by decide, by decide⟩, by decide, by decide, rfl, rfl⟩

theorem witness_SettingsResponseUpdatesSnapshot :
    (reply .recordingSettings []).command = Config.wpe.respCode .recordingSettings := rfl

theorem witness_PasscodeResponseUnlocksOrRejects :
    (reply .passcode [0x00]).command = Config.wpe.respCode .passcode := rfl

theorem witness_WriteResponseRequestsOrSurfaces :
    ((.settingsWrite : Command) = .settingsWrite ∨ (.settingsWrite : Command) = .start ∨ (.settingsWrite : Command) = .stop) ∧
    (reply .settingsWrite [0x00]).command = Config.wpe.respCode .settingsWrite ∧
    (reply .start [0x00]).command = Config.wpe.respCode .start ∧
    (reply .stop [0x00]).command = Config.wpe.respCode .stop := ⟨.inl rfl, rfl, rfl, rfl⟩

theorem setE_valid : setE.Valid := by
  refine ⟨fun c d => ?_, by decide, by decide, by decide, by decide, by decide⟩
  cases c <;> cases d <;> decide

theorem witness_StatusByteIsDecoded : setE.Valid ∧ (0x02 : Byte) = setE.statusBusy ∧ setE.refuses 0x10 = true ∧
    (0x7F : Byte) ≠ 0x00 ∧ (0x7F : Byte) ≠ setE.statusBusy ∧ setE.refuses 0x7F = false :=
  ⟨setE_valid, rfl, by decide, by decide, by decide, by decide⟩

theorem witness_FsmFollowsTransitionTable :
    (∃ t, (∀ chunk now, Instr.csPollstate .streaming ≠ .wpeNotify chunk now) ∧
      exec (.csPollstate .streaming) s0 = .next t) ∧
    ∃ t, exec (.wpeNotify f1 ⟨0⟩) s0 = .next t := by
  refine ⟨⟨_, ?_, rfl⟩, ⟨_, rfl⟩⟩
  exact fun _ _ h => by cases h

theorem witness_SecurityLockIsLeftOnlyByAcceptance :
    ∃ t, ({ s0 with fsm := .securityLocked } : State).fsm = .securityLocked ∧
      exec .csDisconnect { s0 with fsm := .securityLocked } = .next t ∧ t.fsm ≠ .securityLocked :=
  ⟨_, rfl, rfl, by decide⟩

theorem witness_OnlyChecksumOperationsTouchCrc :
    ∃ t, exec .csDisconnect s0 = .next t ∧ Instr.csDisconnect ≠ .crcInit ∧ (∀ b, Instr.csDisconnect ≠ .crcUpdate b) ∧
      (∀ d, Instr.csDisconnect ≠ .crcBlock d) ∧ Instr.csDisconnect ≠ .wpeReset := by
  refine ⟨_, rfl, ?_, ?_, ?_, ?_⟩
  · decide
  · exact fun _ h => by cases h
  · exact fun _ h => by cases h
  · decide

theorem witness_OnlyAssemblerOperationsTouchBuffer :
    ∃ t, exec .crcInit s0 = .next t ∧ (∀ c, Instr.crcInit ≠ .faAppend c) ∧ Instr.crcInit ≠ .faReset ∧
      (∀ c n, Instr.crcInit ≠ .wpeNotify c n) ∧ Instr.crcInit ≠ .csDisconnect ∧ Instr.crcInit ≠ .wpeReset := by
  refine ⟨_, rfl, ?_, by decide, ?_, by decide, by decide⟩
  · exact fun _ h => by cases h
  · exact fun _ _ h => by cases h

theorem witness_RaisedErrorLeavesState :
    ∃ t, (∀ f n, Instr.csConnect dev true ≠ .csRecv f n) ∧ (∀ c n, Instr.csConnect dev true ≠ .wpeNotify c n) ∧
      exec (.csConnect dev true) s0 = .next t ∧ .error (.illegalState .csConnect .ready) ∈ t.events := by
  refine ⟨_, ?_, ?_, rfl, by decide⟩
  · exact fun _ _ h => by cases h
  · exact fun _ _ h => by cases h

theorem witness_SpentPasscodeIsNotSentAgain : ({ s0 with autoSpent := true } : State).autoSpent = true ∧
    (reply .currentValue [Config.wpe.reasonLocked]).command = Config.wpe.respCode .currentValue := ⟨rfl, rfl⟩

theorem witness_OutboundFramesKeepSequenceOrder :
    ∃ t, Inv connecting ∧ Instr.csSend 0 [] ≠ .csDisconnect ∧ Instr.csSend 0 [] ≠ .wpeReset ∧
      exec (.csSend 0 []) connecting = .next t :=
  ⟨_, witness_inv, by decide, by decide, rfl⟩

theorem witness_StepKeepsInvariant : ∃ t, Inv connecting ∧ step connecting = .next t := ⟨_, witness_inv, rfl⟩

theorem witness_StepRunsPresentedOperation :
    (({ s0 with port := [.op 0x10 []] } : State).port = .op 0x10 [] :: [] ∧ decode (.op 0x10 []) = .ok .crcInit) ∧
    (({ s0 with port := [.op 0x11 []] } : State).port = .op 0x11 [] :: [] ∧
      decode (.op 0x11 []) = .error (.operandTypes .crcUpdate)) ∧ s0.port = [] := ⟨⟨rfl, rfl⟩, ⟨rfl, rfl⟩, rfl⟩

theorem witness_DecodeOfEncodeIsInstruction : (Instr.csRecv ⟨0, 0, 65535, [], 0⟩ ⟨0⟩).wf = true ∧
    (Instr.illegalOp 0x48).wf = true ∧ (Instr.passcode 9 9 9 9 9 9 9 9).wf = true ∧ Instr.wpeReset.wf = true := by decide

theorem witness_IllegalOpRaisesErrorOnly :
    (0x02 : Byte) ∉ [0x00, 0x01, 0x10, 0x11, 0x12, 0x13, 0x20, 0x21, 0x30, 0x31, 0x40, 0x41, 0x42, 0x43, 0x44, 0x45, 0x46,
      0x47] ∧
    (0xFF : Byte) ∉ [0x00, 0x01, 0x10, 0x11, 0x12, 0x13, 0x20, 0x21, 0x30, 0x31, 0x40, 0x41, 0x42, 0x43, 0x44, 0x45, 0x46,
      0x47] ∧ ((6 : BitVec 3) = 6 ∨ (6 : BitVec 3) = 7) ∧ ((7 : BitVec 3) = 6 ∨ (7 : BitVec 3) = 7) := by decide

theorem witness_FormatRowsAnswerTheirValue : (zeros 65535).length ≤ 65535 ∧
    (∀ x ∈ ([9, 9, 9, 9, 9, 9, 9, 9] : List (BitVec 4)), x.toNat ≤ 9) ∧
    ∀ c, Config.wpe.respCode c ≠ Config.respPermutation 6 :=
  ⟨zeros_fit, by decide, witness_UnknownCommandIsLoggedOnly.2⟩

theorem witness_PollingControllerDecides :
    (∃ m : PollingMetrics, 3 ≤ m.notifyCount - m.countAtTick ∧ 1 ≤ m.fastTicks ∧ m.running = true) ∧
    (∃ m : PollingMetrics, m.notifyCount - m.countAtTick < 2 ∧ 1 ≤ m.slowTicks ∧ m.running = false ∧
      m.windowOpen = false) ∧ (∃ m : PollingMetrics, m.windowOpen = true) ∧
    (∃ m : PollingMetrics, m.windowOpen = true ∧ m.running = false ∧ m.channel = false) ∧
    (∃ m : PollingMetrics, m.windowOpen = false ∧ m.running = false ∧ m.channel = true) :=
  ⟨⟨{ PollingMetrics.initial with notifyCount := 3, fastTicks := 1, running := true }, by decide, by decide, rfl⟩,
   ⟨{ PollingMetrics.initial with notifyCount := 1, slowTicks := 1 }, by decide, by decide, rfl, rfl⟩,
   ⟨{ PollingMetrics.initial with windowOpen := true }, rfl⟩,
   ⟨{ PollingMetrics.initial with windowOpen := true }, rfl, rfl, rfl⟩,
   ⟨{ PollingMetrics.initial with channel := true }, rfl, rfl, rfl⟩⟩

theorem witness_PacketParserReadsDialects : ((0x80 : Byte) = 0x00 ∨ (0x80 : Byte) = 0x80) ∧
    4 ≤ ([0, 0, 0, 0] : Bytes).length ∧ (0x04 : Byte).toNat + 256 * (0x00 : Byte).toNat ≤ ([0, 0, 0, 0] : Bytes).length ∧
    (∀ x rest, ([0x41] : Bytes) = x :: rest → x ≠ 0x01) ∧
    (([0x41] : Bytes).filter (fun x => 0x20 ≤ x.toNat ∧ x.toNat ≤ 0x7E)).length < 8 := by
  refine ⟨by decide, by decide, by decide, ?_, by decide⟩
  rintro x rest h
  have : (0x41 : Byte) = x := by simpa using congrArg List.head? h
  subst this
  decide

end Sys2Proof.Tests
end

section
/-! SUPPORT. What `fetch` takes from the operation port, what `step` does with each answer of `fetch` and of the
decoder, and the statement about a step (spec/00_scope.md R14, R15) assembled from these. -/

namespace Sys2Proof.Machine

variable {s s' : State} {p : Presentation} {later : List Presentation}

/-! ### The operation port -/

theorem fetch_of_port_nil (hport : s.port = []) : fetch s = none := by
  simp [fetch, hport]

theorem fetch_of_port_cons (hport : s.port = p :: later) : fetch s = some (p, { s with port := later }) := by
  simp [fetch, hport]

/-! ### One step -/

theorem step_of_fetch_none (hfetch : fetch s = none) : step s = .next s := by
  simp [step, hfetch]

theorem step_of_fetch_of_decode_ok {i : Instr} (hfetch : fetch s = some (p, s')) (hdecode : decode p = .ok i) :
    step s = exec i s' := by
  simp [step, hfetch, hdecode]

theorem step_of_fetch_of_decode_error {e : DecodeError} (hfetch : fetch s = some (p, s'))
    (hdecode : decode p = .error e) : step s = .refused (.malformedPresentation e) := by
  simp [step, hfetch, hdecode]

/-- Settles O54: what the port holds fixes what `fetch` answers, and that with the decoder's answer fixes the step. -/
theorem stepRunsPresentedOperation : Obligations.StepRunsPresentedOperation := by
  unfold Obligations.StepRunsPresentedOperation
  refine ⟨?decoded, ?rejected, ?idle⟩
  case decoded =>
    intro s p later i hport hdecode
    exact step_of_fetch_of_decode_ok (fetch_of_port_cons hport) hdecode
  case rejected =>
    intro s p later e hport hdecode
    exact step_of_fetch_of_decode_error (fetch_of_port_cons hport) hdecode
  case idle =>
    intro s hport
    exact step_of_fetch_none (fetch_of_port_nil hport)

end Sys2Proof.Machine
end

section
/-! SUPPORT. What the statements about every operation share: the operations that only answer (spec/00_scope.md R14), and the
sequence numbers of frames encoded one after another (spec/43_session.md R171). -/

namespace Sys2Proof.Machine

variable {s t : State}

/-! ### Operations that only answer -/

/-- At most the result and the event list differ: what the port shows, and no state element (spec/00_scope.md R14). -/
def AnswersOnly (s t : State) : Prop := ∃ r evs, t = { s with result := r, events := evs }

theorem answersOnly_answer (r : Result) (s : State) : AnswersOnly s (answer r (begin s)) := ⟨r, [], rfl⟩

theorem answersOnly_raise (k : ErrorKind) (s : State) : AnswersOnly s (raise k (begin s)) := ⟨.none, [.error k], rfl⟩

theorem answersOnly_fcEncode (P : Params) (cmd seq : Byte) (p : Bytes) (brk : Bool) (s : State) :
    AnswersOnly s (fcEncodeWith P cmd seq p brk s) := by
  unfold fcEncodeWith
  split
  · exact answersOnly_raise _ s
  · exact answersOnly_answer _ s

theorem answersOnly_csPassenc (P : Params) (text : Text) (s : State) : AnswersOnly s (csPassencWith P text s) := by
  unfold csPassencWith
  split
  · exact answersOnly_raise _ s
  · exact answersOnly_answer _ s

theorem answersOnly_passcode (P : Params) (digits : List (BitVec 4)) (s : State) :
    AnswersOnly s (passcodeWith P digits s) :=
  answersOnly_csPassenc P (digits.map digitChar) s

/-! ### Sequence numbers of frames in a row -/

/-- Frames encoded one after another, cut in two: the second part goes on with the number after the first (R171). -/
theorem sentFrom_append {q : Byte} {a b : List Bytes} :
    SentFrom q (a ++ b) ↔ SentFrom q a ∧ SentFrom (q + BitVec.ofNat 8 a.length) b := by
  induction a generalizing q with
  | nil => simp [SentFrom]
  | cons x rest ih =>
    have hq : q + 1 + BitVec.ofNat 8 rest.length = q + BitVec.ofNat 8 (x :: rest).length := by
      rw [List.length_cons, BitVec.ofNat_add, add_right_comm, ← add_assoc]
      rfl
    rw [List.cons_append, SentFrom, SentFrom, ih, hq, and_assoc]

/-- What an accepted send encodes carries the sequence number before the increment (R171). -/
theorem sentFrame_sendBytes {c : Command} {p : Bytes} (hp : p.length ≤ Config.maxPayload) :
    SentFrame s.seq (sendBytes Config.wpe c p s) :=
  ⟨c, p, s.brkEn, hp, rfl⟩

end Sys2Proof.Machine
end

section
/-! SUPPORT. The invariant of the state between operations (spec/10_state.md section 2): every shared operation keeps it,
so each operation of the port does, and so each step. -/

namespace Sys2Proof.Machine

variable {s t : State}

/-! ### Updates of single state elements -/

/-- The checksum, the snapshot, `auto_spent` and the fields of the port and the host stand outside the invariant. -/
theorem Inv.frame (hs : Inv s) (crc : Word16) (auto : Bool) (snap : DeviceSnapshot) (port : List Presentation)
    (lookup : List PasscodeTable) (r : Result) (evs : List Event) :
    Inv { s with crc := crc, autoSpent := auto, snap := snap, port := port, lookup := lookup, result := r,
                 events := evs } :=
  { hs with }

theorem Inv.after_begin (hs : Inv s) : Inv (begin s) := hs.frame ..

theorem Inv.after_emit (hs : Inv s) (e : Event) : Inv (emit e s) := hs.frame ..

theorem Inv.after_raise (hs : Inv s) (k : ErrorKind) : Inv (raise k s) := hs.frame ..

theorem Inv.of_answersOnly (hs : Inv s) (h : AnswersOnly s t) : Inv t := by
  obtain ⟨r, evs, rfl⟩ := h
  exact hs.frame ..

/-- Expectations may leave the store (R43, R176). -/
theorem Inv.drop_expect (hs : Inv s) {es : List Expectation} (h : es.Sublist s.expect) : Inv { s with expect := es } :=
  { hs with
    expectDepth := h.length_le.trans hs.expectDepth
    expectResp := fun e he => hs.expectResp e (h.subset he) }

/-- `unlocked` may be cleared in any state and set in any but SecurityLocked (R45). -/
theorem Inv.after_setUnlocked (hs : Inv s) {u : Bool} (h : s.fsm = .securityLocked → u = false) : Inv (setUnlocked u s) :=
  { hs with locked := h }

/-- Without a connection, and with all that belongs to one cleared, the invariant holds (R208, R290). -/
theorem inv_of_cleared (hfsm : t.fsm.offline = true) (hbuf : t.buf = []) (hexpect : t.expect = []) (hdefer : t.defer = [])
    (hchannel : t.writeAvail = false) (hbrk : t.brkEn = false) (hdevice : t.deviceId = none)
    (hunlocked : t.unlocked = false) : Inv t where
  buf := by rw [hbuf]; exact Memory.wf_nil
  expectDepth := by simp [hexpect]
  expectResp := by simp [hexpect]
  deferDepth := by simp [hdefer]
  deferFrames := by rw [hdefer]; trivial
  flushed _ := hdefer
  offline _ := ⟨hchannel, hbrk, hdevice⟩
  online h := by simp [hfsm] at h
  awaiting _ := hchannel
  locked _ := hunlocked

/-! ### Moves of the session state register -/

/-- A move that neither makes nor ends a connection and does not lead into AwaitingCharacteristics (R209). -/
def KeepsConnection (f g : Fsm) : Prop :=
  g.offline = f.offline ∧ (g = .awaitingCharacteristics → f = .awaitingCharacteristics)

theorem keepsConnection_onChannel (f : Fsm) (w : Bool) : KeepsConnection f (f.onChannel w) := by
  unfold KeepsConnection
  cases f <;> cases w <;> decide

theorem keepsConnection_onPollstate (f : Fsm) (p : PState) : KeepsConnection f (f.onPollstate p) := by
  unfold KeepsConnection
  cases f <;> cases p <;> decide

theorem keepsConnection_onSecurityRefusal (f : Fsm) : KeepsConnection f f.onSecurityRefusal := by
  unfold KeepsConnection
  cases f <;> decide

theorem keepsConnection_onPasscodeAck (f : Fsm) : KeepsConnection f f.onPasscodeAck := by
  unfold KeepsConnection
  cases f <;> decide

/-- A channel handed over ends AwaitingCharacteristics (R202). -/
theorem onChannel_true_ne_awaiting (f : Fsm) : f.onChannel true ≠ .awaitingCharacteristics := by
  cases f <;> decide

theorem onChannel_false (f : Fsm) : f.onChannel false = f := by simp [Fsm.onChannel]

/-- Neither a channel nor a polling move locks a session (R202, R204). -/
theorem onChannel_eq_securityLocked {f : Fsm} {w : Bool} (h : f.onChannel w = .securityLocked) :
    f = .securityLocked := by
  revert h
  cases f <;> cases w <;> decide

theorem onPollstate_eq_securityLocked {f : Fsm} {p : PState} (h : f.onPollstate p = .securityLocked) :
    f = .securityLocked := by
  revert h
  cases f <;> cases p <;> decide

/-- An accepted passcode leaves no session locked (R206). -/
theorem onPasscodeAck_ne_securityLocked (f : Fsm) : f.onPasscodeAck ≠ .securityLocked := by
  cases f <;> decide

/-- The state register may move within a connection, into SecurityLocked only where `unlocked` is clear. -/
theorem Inv.after_setFsm (hs : Inv s) {f : Fsm} (hmove : KeepsConnection s.fsm f)
    (hlock : f = .securityLocked → s.unlocked = false) : Inv (setFsm f s) :=
  { hs with
    offline := fun h => hs.offline (hmove.1.symm.trans h)
    online := fun h => hs.online (hmove.1.symm.trans h)
    awaiting := fun h => hs.awaiting (hmove.2 h)
    locked := hlock }

/-! ### Sending -/

/-- A full store loses its oldest expectation before it takes the new one (R43). -/
theorem Inv.after_pushExpect (hs : Inv s) (c : Command) (q : Byte) :
    Inv (pushExpect ⟨c, Config.wpe.respCode c, q⟩ s) := by
  have hdepth := hs.expectDepth
  refine { hs with expectDepth := ?_, expectResp := ?_ }
  · rw [pushExpect_expect, List.length_append, List.length_singleton]
    have hroom : Config.expectDepth = 8 := rfl
    split
    · rw [List.length_drop]; omega
    · omega
  · intro e he
    rw [pushExpect_expect, List.mem_append, List.mem_singleton] at he
    obtain he | rfl := he
    · split at he
      · exact hs.expectResp e (List.mem_of_mem_drop he)
      · exact hs.expectResp e he
    · rfl

/-- A frame written out takes a sequence number while nothing is deferred (R171, R203). -/
theorem Inv.send_written (hs : Inv s) (hw : s.writeAvail = true) (c : Command) (p : Bytes) :
    Inv (transmit (sendBytes Config.wpe c p s) (sendTaken Config.wpe c s)) := by
  have htaken := hs.after_pushExpect c s.seq
  have hdefer : s.defer = [] := hs.flushed hw
  refine { htaken with deferFrames := ?_ }
  rw [transmit_defer, show (sendTaken Config.wpe c s).defer = s.defer from rfl, hdefer]
  trivial

/-- A deferred frame stands behind the others with the number after theirs (R44, R173). -/
theorem Inv.send_deferred (hs : Inv s) (hw : s.writeAvail = false) (hroom : s.defer.length ≠ Config.deferDepth)
    (c : Command) {p : Bytes} (hp : p.length ≤ Config.maxPayload) :
    Inv (pushDefer (sendBytes Config.wpe c p s) (sendTaken Config.wpe c s)) := by
  have htaken := hs.after_pushExpect c s.seq
  have hdepth := hs.deferDepth
  refine { htaken with deferDepth := ?_, deferFrames := ?_, flushed := ?_ }
  · show (s.defer ++ [_]).length ≤ Config.deferDepth
    rw [List.length_append, List.length_singleton]
    omega
  · show SentFrom (s.seq + 1 - BitVec.ofNat 8 (s.defer ++ [_]).length) (s.defer ++ [_])
    have hfirst : s.seq + 1 - BitVec.ofNat 8 (s.defer.length + 1) = s.seq - BitVec.ofNat 8 s.defer.length := by
      rw [BitVec.ofNat_add]
      exact add_sub_add_right_eq_sub ..
    have hlast : s.seq - BitVec.ofNat 8 s.defer.length + BitVec.ofNat 8 s.defer.length = s.seq :=
      BitVec.sub_add_cancel ..
    rw [List.length_append, List.length_singleton, hfirst, sentFrom_append, hlast]
    exact ⟨hs.deferFrames, sentFrame_sendBytes hp, trivial⟩
  · intro h
    exact absurd (hw.symm.trans h) (by decide)

theorem Inv.after_doSend (hs : Inv s) (c : Command) (p : Bytes) : Inv (doSend Config.wpe c p s).state := by
  rcases doSend_cases Config.wpe c p s with ⟨-, h⟩ | ⟨-, -, -, h⟩ | ⟨-, hw, h⟩ | ⟨hp, hw, hroom, h⟩ <;> rw [h]
  · exact hs.after_raise _
  · exact hs.after_raise _
  · exact hs.send_written hw c p
  · exact hs.send_deferred hw hroom c hp

/-! ### Receiving -/

theorem Inv.after_correlate (hs : Inv s) (f : Frame) : Inv (correlate f s).2 := by
  rw [correlate_state]
  exact hs.drop_expect (correlate_expect_sublist f s)

theorem Inv.after_autoUnlock (hs : Inv s) (id : DeviceId) : Inv (autoUnlock Config.wpe id s) := by
  have hask : Inv (askPasscode id s).2 := by
    rw [askPasscode_state]
    exact hs.frame ..
  rcases autoUnlock_cases Config.wpe id s with ⟨-, h⟩ | ⟨-, -, -, h⟩ | ⟨-, p, -, -, h⟩ <;> rw [h]
  · exact hask
  · exact hask.after_raise _
  · split
    · exact (hask.after_doSend .passcode p).frame ..
    · exact hask.after_doSend .passcode p

/-- A refused session is marked not unlocked before it moves to SecurityLocked (R181). -/
theorem Inv.after_onSecurityRefusal (hs : Inv s) : Inv (onSecurityRefusal Config.wpe s) := by
  have hmoved : Inv (emit .securityNeeded (setFsm s.fsm.onSecurityRefusal (setUnlocked false s))) :=
    ((hs.after_setUnlocked fun _ => rfl).after_setFsm (keepsConnection_onSecurityRefusal s.fsm) fun _ => rfl).after_emit _
  unfold onSecurityRefusal
  dsimp only
  split
  · exact hmoved
  · split
    · exact hmoved
    · exact hmoved.after_autoUnlock _

/-- An accepted session leaves SecurityLocked as it is marked unlocked (R186). -/
theorem Inv.after_onPasscodeAck (hs : Inv s) : Inv (onPasscodeAck s) := by
  have hmoved : Inv (setFsm s.fsm.onPasscodeAck s) :=
    hs.after_setFsm (keepsConnection_onPasscodeAck s.fsm) fun h => absurd h (onPasscodeAck_ne_securityLocked s.fsm)
  exact (hmoved.after_setUnlocked (u := true) fun h => absurd h (onPasscodeAck_ne_securityLocked s.fsm)).frame ..

theorem Inv.after_onCurrentValue (hs : Inv s) (st : Status) (f : Frame) (now : Time) :
    Inv (onCurrentValue Config.wpe st f now s) := by
  cases st <;> simp only [onCurrentValue]
  case ack =>
    unfold onCurrentAck
    split <;> exact hs.frame ..
  case refuse r =>
    split
    · exact hs.after_onSecurityRefusal
    · exact hs.after_raise _
  all_goals exact hs.after_emit _

theorem Inv.after_onRecordingSettings (hs : Inv s) (st : Status) (f : Frame) :
    Inv (onRecordingSettings Config.wpe st f s) := by
  cases st <;> simp only [onRecordingSettings]
  case ack =>
    unfold onSettingsAck
    split <;> exact hs.frame ..
  all_goals exact hs.frame ..

theorem Inv.after_onPasscode (hs : Inv s) (st : Status) : Inv (onPasscode st s) := by
  cases st
  case ack => exact hs.after_onPasscodeAck
  all_goals exact hs.frame ..

theorem Inv.after_onWrite (hs : Inv s) (c : Command) (st : Status) : Inv (onWrite Config.wpe c st s) := by
  cases st
  case ack => exact hs.after_doSend _ _
  all_goals exact hs.frame ..

theorem Inv.after_handle (hs : Inv s) (c : Command) (st : Status) (f : Frame) (now : Time) :
    Inv (handle Config.wpe c st f now s) := by
  cases c with
  | currentValue => exact hs.after_onCurrentValue st f now
  | recordingSettings => exact hs.after_onRecordingSettings st f
  | passcode => exact hs.after_onPasscode st
  | settingsWrite => exact hs.after_onWrite _ st
  | start => exact hs.after_onWrite _ st
  | stop => exact hs.after_onWrite _ st

theorem Inv.after_receive (hs : Inv s) (f : Frame) (now : Time) : Inv (receive Config.wpe f now s) := by
  have hlogged := (hs.after_correlate f).after_emit (.logRx f (correlate f s).1)
  rcases receive_cases Config.wpe f now s with ⟨-, h⟩ | ⟨c, -, h⟩ <;> rw [h]
  · exact hlogged.after_emit _
  · exact hlogged.after_handle c _ f now

theorem Inv.after_receiveAll (hs : Inv s) (now : Time) (fs : List Frame) : Inv (receiveAll Config.wpe now fs s) := by
  induction fs generalizing s with
  | nil => exact hs
  | cons f rest ih => exact ih ((hs.after_emit (.arrival now)).after_receive f now)

/-- Whatever the buffer was, the assembler leaves it in canonical form (R36, R153). -/
theorem Inv.after_assemble (hs : Inv s) (chunk : Bytes) : Inv (assemble Config.wpe chunk s).2 :=
  { hs with buf := Memory.wf_append .. }

/-! ### The operations of the port that change the session -/

theorem Inv.after_csSend (hs : Inv s) (c : BitVec 3) (p : Bytes) : Inv (csSendWith Config.wpe c p s) := by
  unfold csSendWith
  split
  · exact hs.after_begin.after_raise _
  · exact hs.after_begin.after_doSend _ p

theorem Inv.after_csUnlock (hs : Inv s) (text : Text) : Inv (csUnlockWith Config.wpe text s) := by
  unfold csUnlockWith
  split
  · exact hs.after_begin.after_raise _
  · exact hs.after_begin.after_doSend _ _

/-- Before a connection there is no channel, so none is there while its characteristics are awaited (R201). -/
theorem Inv.after_csConnect (hs : Inv s) {id : DeviceId} {brk : Bool} (h : exec (.csConnect id brk) s = .next t) : Inv t := by
  cases h
  split
  case isTrue hoff =>
    exact { hs with
      offline := fun h => by cases h
      online := fun _ h => by cases h
      awaiting := fun _ => (hs.offline hoff).1
      locked := fun h => by cases h }
  case isFalse => exact hs.after_begin.after_raise _

/-- A channel handed over takes all deferred frames at once; one taken away leaves the queue as it is (R202, R203). -/
theorem Inv.after_csChannel (hs : Inv s) {w : Bool} (h : exec (.csChannel w) s = .next t) : Inv t := by
  cases h
  split
  case isTrue => exact hs.after_begin.after_raise _
  case isFalse hoff =>
    cases w
    case true =>
      simp only [if_true, flush_eq]
      exact { hs with
        deferDepth := Nat.zero_le _
        deferFrames := trivial
        flushed := fun _ => rfl
        offline := fun h => absurd ((keepsConnection_onChannel s.fsm true).1.symm.trans h) hoff
        online := fun h => hs.online ((keepsConnection_onChannel s.fsm true).1.symm.trans h)
        awaiting := fun h => absurd h (onChannel_true_ne_awaiting s.fsm)
        locked := fun h => hs.locked (onChannel_eq_securityLocked h) }
    case false =>
      simp only [Bool.false_eq_true, if_false, onChannel_false]
      exact { hs with
        flushed := fun h => by cases h
        offline := fun h => absurd h hoff
        awaiting := fun _ => rfl }

theorem Inv.after_csPollstate (hs : Inv s) (p : PState) : Inv (setFsm (s.fsm.onPollstate p) (begin s)) :=
  hs.after_begin.after_setFsm (keepsConnection_onPollstate s.fsm p)
    fun h => hs.locked (onPollstate_eq_securityLocked h)

/-- Every operation keeps the invariant. -/
theorem Inv.after_exec (hs : Inv s) {i : Instr} (h : exec i s = .next t) : Inv t := by
  cases i with
  | wpeReset => cases h; exact inv_of_cleared rfl rfl rfl rfl rfl rfl rfl rfl
  | wpeNotify chunk now => cases h; exact ((hs.after_begin.after_assemble chunk).after_receiveAll now _).frame ..
  | crcInit => cases h; exact hs.frame ..
  | crcUpdate b => cases h; exact hs.frame ..
  | crcRead => cases h; exact hs.frame ..
  | crcBlock data => cases h; exact hs.frame ..
  | fcEncode cmd seq p brk => cases h; exact hs.of_answersOnly (answersOnly_fcEncode ..)
  | fcDecode data => cases h; exact hs.frame ..
  | faAppend chunk => cases h; exact (hs.after_begin.after_assemble chunk).frame ..
  | faReset => cases h; exact { hs with buf := Memory.wf_nil }
  | csSend c p => cases h; exact hs.after_csSend c p
  | csRecv f now => cases h; exact hs.after_begin.after_receive f now
  | csConnect id brk => exact hs.after_csConnect h
  | csChannel w => exact hs.after_csChannel h
  | csPollstate p => cases h; exact hs.after_csPollstate p
  | csDisconnect => cases h; exact inv_of_cleared rfl rfl rfl rfl rfl rfl rfl rfl
  | csPassenc text => cases h; exact hs.of_answersOnly (answersOnly_csPassenc ..)
  | csUnlock text => cases h; exact hs.after_csUnlock text
  | illegalOp op => cases h; exact hs.frame ..
  | frame cmd seq p crc => cases h; exact hs.frame ..
  | status p => cases h; exact hs.frame ..
  | passcode a b c d e f g k => cases h; exact hs.of_answersOnly (answersOnly_passcode ..)
  | commandClass b => cases h; exact hs.frame ..

/-- Settles O52: a step holds the state, or refuses, or performs one operation on the state whose port has moved on. -/
theorem stepKeepsInvariant : Obligations.StepKeepsInvariant := by
  unfold Obligations.StepKeepsInvariant
  intro s t hs h
  cases hport : s.port with
  | nil =>
    rw [step_of_fetch_none (fetch_of_port_nil hport)] at h
    cases h
    exact hs
  | cons p later =>
    have hfetch := fetch_of_port_cons hport
    cases hdecode : decode p with
    | error e =>
      rw [step_of_fetch_of_decode_error hfetch hdecode] at h
      cases h
    | ok i =>
      rw [step_of_fetch_of_decode_ok hfetch hdecode] at h
      have hmoved : Inv { s with port := later } := hs.frame ..
      exact hmoved.after_exec h

end Sys2Proof.Machine
end

section
/-! SUPPORT. The owners of `crc`, of BUF and of the port's queue (spec/10_state.md R30, R34): which operations write each,
and that no other does. -/

namespace Sys2Proof.Machine

variable {s t : State}

/-- The operations that write `crc` (R34). -/
def writesCrc : Instr → Bool
  | .crcInit => true
  | .crcUpdate _ => true
  | .crcBlock _ => true
  | .wpeReset => true
  | _ => false

/-- The operations that write BUF (R30, spec/20_memory.md section 1). -/
def writesBuf : Instr → Bool
  | .faAppend _ => true
  | .faReset => true
  | .wpeNotify _ _ => true
  | .csDisconnect => true
  | .wpeReset => true
  | _ => false

/-- `crc`, BUF and the port's queue are as before an operation, but for what it owns. -/
structure KeepsOwned (i : Instr) (s t : State) : Prop where
  crc : writesCrc i = false → t.crc = s.crc
  buf : writesBuf i = false → t.buf = s.buf
  port : t.port = s.port

theorem KeepsOwned.of_answersOnly {i : Instr} (h : AnswersOnly s t) : KeepsOwned i s t := by
  obtain ⟨r, evs, rfl⟩ := h
  exact ⟨fun _ => rfl, fun _ => rfl, rfl⟩

theorem KeepsOwned.of_keeps {i : Instr} (h : Keeps (begin s) t) : KeepsOwned i s t :=
  ⟨fun _ => h.crc, fun _ => h.buf, h.port⟩

theorem csSend_keeps (P : Params) (c : BitVec 3) (p : Bytes) (s : State) : Keeps (begin s) (csSendWith P c p s) := by
  unfold csSendWith
  split
  · exact raise_keeps _ _
  · exact doSend_keeps P _ p _

theorem csUnlock_keeps (P : Params) (text : Text) (s : State) : Keeps (begin s) (csUnlockWith P text s) := by
  unfold csUnlockWith
  split
  · exact raise_keeps _ _
  · exact doSend_keeps P _ _ _

/-- The assembler's frames are received on a state in which only BUF and the events have changed. -/
theorem wpeNotify_keepsOwned (chunk : Bytes) (now : Time) (s : State) :
    KeepsOwned (.wpeNotify chunk now) s (wpeNotifyWith Config.wpe chunk now s) := by
  have h := receiveAll_keeps Config.wpe now (assemble Config.wpe chunk (begin s)).1 (assemble Config.wpe chunk (begin s)).2
  exact ⟨fun _ => h.crc, nofun, h.port⟩

theorem csConnect_keepsOwned {id : DeviceId} {brk : Bool} (h : exec (.csConnect id brk) s = .next t) :
    KeepsOwned (.csConnect id brk) s t := by
  cases h
  split <;> exact ⟨fun _ => rfl, fun _ => rfl, rfl⟩

theorem csChannel_keepsOwned {w : Bool} (h : exec (.csChannel w) s = .next t) : KeepsOwned (.csChannel w) s t := by
  cases h
  split
  case isTrue => exact .of_answersOnly (answersOnly_raise _ s)
  case isFalse =>
    simp only [flush_eq]
    split <;> exact ⟨fun _ => rfl, fun _ => rfl, rfl⟩

/-- Every operation leaves alone what it does not own. -/
theorem exec_keepsOwned {i : Instr} (h : exec i s = .next t) : KeepsOwned i s t := by
  cases i with
  | wpeReset => cases h; exact ⟨nofun, nofun, rfl⟩
  | wpeNotify chunk now => cases h; exact wpeNotify_keepsOwned chunk now s
  | crcInit => cases h; exact ⟨nofun, fun _ => rfl, rfl⟩
  | crcUpdate b => cases h; exact ⟨nofun, fun _ => rfl, rfl⟩
  | crcRead => cases h; exact .of_answersOnly (answersOnly_answer _ s)
  | crcBlock data => cases h; exact ⟨nofun, fun _ => rfl, rfl⟩
  | fcEncode cmd seq p brk => cases h; exact .of_answersOnly (answersOnly_fcEncode ..)
  | fcDecode data => cases h; exact .of_answersOnly (answersOnly_answer _ s)
  | faAppend chunk => cases h; exact ⟨fun _ => rfl, nofun, rfl⟩
  | faReset => cases h; exact ⟨fun _ => rfl, nofun, rfl⟩
  | csSend c p => cases h; exact .of_keeps (csSend_keeps ..)
  | csRecv f now => cases h; exact .of_keeps (receive_keeps ..)
  | csConnect id brk => exact csConnect_keepsOwned h
  | csChannel w => exact csChannel_keepsOwned h
  | csPollstate p => cases h; exact ⟨fun _ => rfl, fun _ => rfl, rfl⟩
  | csDisconnect => cases h; exact ⟨fun _ => rfl, nofun, rfl⟩
  | csPassenc text => cases h; exact .of_answersOnly (answersOnly_csPassenc ..)
  | csUnlock text => cases h; exact .of_keeps (csUnlock_keeps ..)
  | illegalOp op => cases h; exact .of_answersOnly (answersOnly_raise _ s)
  | frame cmd seq p crc => cases h; exact .of_answersOnly (answersOnly_answer _ s)
  | status p => cases h; exact .of_answersOnly (answersOnly_answer _ s)
  | passcode a b c d e f g k => cases h; exact .of_answersOnly (answersOnly_passcode ..)
  | commandClass b => cases h; exact .of_answersOnly (answersOnly_answer _ s)

theorem writesCrc_eq_false {i : Instr} (hinit : i ≠ .crcInit) (hupdate : ∀ b, i ≠ .crcUpdate b)
    (hblock : ∀ d, i ≠ .crcBlock d) (hreset : i ≠ .wpeReset) : writesCrc i = false := by
  unfold writesCrc
  split <;> simp_all

theorem writesBuf_eq_false {i : Instr} (happend : ∀ c, i ≠ .faAppend c) (hclear : i ≠ .faReset)
    (hnotify : ∀ c n, i ≠ .wpeNotify c n) (hdisconnect : i ≠ .csDisconnect) (hreset : i ≠ .wpeReset) :
    writesBuf i = false := by
  unfold writesBuf
  split <;> simp_all

/-- Settles O47: an operation that is none of the four does not own `crc`. -/
theorem onlyChecksumOperationsTouchCrc : Obligations.OnlyChecksumOperationsTouchCrc := by
  unfold Obligations.OnlyChecksumOperationsTouchCrc
  intro i s t h hinit hupdate hblock hreset
  exact (exec_keepsOwned h).crc (writesCrc_eq_false hinit hupdate hblock hreset)

/-- Settles O48: no operation owns the port's queue, and one that is none of the five does not own BUF. -/
theorem onlyAssemblerOperationsTouchBuffer : Obligations.OnlyAssemblerOperationsTouchBuffer := by
  unfold Obligations.OnlyAssemblerOperationsTouchBuffer
  intro i s t h
  have howned := exec_keepsOwned h
  refine ⟨howned.port, fun happend hclear hnotify hdisconnect hreset a => ?_⟩
  rw [howned.buf (writesBuf_eq_false happend hclear hnotify hdisconnect hreset)]

end Sys2Proof.Machine
end

section
/-! SUPPORT. The frames an operation answers with satisfy the invariants of a frame value (spec/10_state.md R50). -/

namespace Sys2Proof.Machine

variable {s t : State}

/-- The invariants of R50 hold of every frame in a result. -/
def FramesValid (r : Result) : Prop := ∀ f ∈ resultFrames r, frameValid Config.wpe.crcInit f = true

/-- `frameValid` in the words of R50, the header byte by byte. -/
theorem frameValid_iff {f : Frame} : frameValid Config.wpe.crcInit f = true ↔
    f.length = f.payload.length ∧ f.length ≤ 65535 ∧
      f.checksum = crc16 0x0000 ([0x01, f.command, f.sequence, BitVec.ofNat 8 (f.length % 256),
        BitVec.ofNat 8 (f.length / 256)] ++ f.payload) :=
  decide_eq_true_iff

theorem framesValid_none : FramesValid .none := nofun

theorem framesValid_bytes (b : Bytes) : FramesValid (.bytes b) := nofun

/-- What `decode` accepts is a valid frame (R136). -/
theorem framesValid_decoded (b : Bytes) : FramesValid (.decoded (decodeFrame Config.wpe.crcInit b)) := by
  intro f hf
  cases h : decodeFrame Config.wpe.crcInit b with
  | none =>
    rw [h] at hf
    cases hf
  | some g =>
    rw [h] at hf
    obtain rfl : f = g := List.mem_singleton.mp hf
    exact (decodeFrame_eq_some_iff.mp h).1

/-- What the assembler finds are valid frames (R152). -/
theorem framesValid_assemble (chunk : Bytes) (s : State) : FramesValid (.frames (assemble Config.wpe chunk s).1) :=
  extract_frames_valid _ _

theorem framesValid_fcEncode (cmd seq : Byte) (p : Bytes) (brk : Bool) (s : State) :
    FramesValid (fcEncodeWith Config.wpe cmd seq p brk s).result := by
  unfold fcEncodeWith
  split
  · exact framesValid_none
  · exact framesValid_bytes _

theorem framesValid_csPassenc (text : Text) (s : State) : FramesValid (csPassencWith Config.wpe text s).result := by
  unfold csPassencWith
  split
  · exact framesValid_none
  · exact framesValid_bytes _

/-- Sending and receiving answer nothing (R95). -/
theorem framesValid_of_keeps (h : Keeps (begin s) t) : FramesValid t.result := h.result ▸ framesValid_none

theorem exec_framesValid {i : Instr} (h : exec i s = .next t) : FramesValid t.result := by
  cases i with
  | wpeReset => cases h; exact framesValid_none
  | wpeNotify chunk now => cases h; exact framesValid_assemble chunk (begin s)
  | crcInit => cases h; exact framesValid_none
  | crcUpdate b => cases h; exact framesValid_none
  | crcRead => cases h; exact nofun
  | crcBlock data => cases h; exact nofun
  | fcEncode cmd seq p brk => cases h; exact framesValid_fcEncode cmd seq p brk s
  | fcDecode data => cases h; exact framesValid_decoded data
  | faAppend chunk => cases h; exact framesValid_assemble chunk (begin s)
  | faReset => cases h; exact framesValid_none
  | csSend c p => cases h; exact framesValid_of_keeps (csSend_keeps Config.wpe c p s)
  | csRecv f now => cases h; exact framesValid_of_keeps (receive_keeps Config.wpe f now (begin s))
  | csConnect id brk => cases h; split <;> exact framesValid_none
  | csChannel w =>
    cases h
    simp only [flush_eq]
    split
    · exact framesValid_none
    · split <;> exact framesValid_none
  | csPollstate p => cases h; exact framesValid_none
  | csDisconnect => cases h; exact framesValid_none
  | csPassenc text => cases h; exact framesValid_csPassenc text s
  | csUnlock text => cases h; exact framesValid_of_keeps (csUnlock_keeps Config.wpe text s)
  | illegalOp op => cases h; exact framesValid_none
  | frame cmd seq p crc => cases h; exact framesValid_decoded _
  | status p => cases h; exact nofun
  | passcode a b c d e f g k => cases h; exact framesValid_csPassenc _ s
  | commandClass b => cases h; exact nofun

/-- Settles O11: the frames come from `decode` and from the assembler, and both answer valid ones only. -/
theorem returnedFramesAreConsistent : Obligations.ReturnedFramesAreConsistent := by
  unfold Obligations.ReturnedFramesAreConsistent
  intro i s t h f hf
  exact frameValid_iff.mp (exec_framesValid h f hf)

end Sys2Proof.Machine
end

section
/-! SUPPORT. While `auto_spent` is set, a current-value response sends nothing (spec/10_state.md R46,
spec/43_session.md R181). -/

namespace Sys2Proof.Machine

variable {s t u : State}

/-- Nothing is sent between two states: nothing written out, nothing deferred, no sequence number taken, and
`auto_spent` as it was. -/
structure SendsNothing (s t : State) : Prop where
  written : txBytes t.events = txBytes s.events
  defer : t.defer = s.defer
  seq : t.seq = s.seq
  autoSpent : t.autoSpent = s.autoSpent

theorem SendsNothing.trans (h : SendsNothing s t) (g : SendsNothing t u) : SendsNothing s u :=
  ⟨g.written.trans h.written, g.defer.trans h.defer, g.seq.trans h.seq, g.autoSpent.trans h.autoSpent⟩

/-- Further events of other streams than the byte-write sink send nothing (R261). -/
theorem SendsNothing.of_events {evs : List Event} (hsilent : txBytes evs = []) (hevents : t.events = s.events ++ evs)
    (hdefer : t.defer = s.defer) (hseq : t.seq = s.seq) (hauto : t.autoSpent = s.autoSpent) : SendsNothing s t :=
  ⟨by rw [hevents, txBytes_append, hsilent, List.append_nil], hdefer, hseq, hauto⟩

theorem sendsNothing_emit {e : Event} (he : txBytes [e] = []) (s : State) : SendsNothing s (emit e s) :=
  .of_events he rfl rfl rfl rfl

theorem sendsNothing_correlate (f : Frame) (s : State) : SendsNothing s (correlate f s).2 := by
  rw [correlate_state]
  exact ⟨rfl, rfl, rfl, rfl⟩

theorem sendsNothing_onCurrentAck (P : Params) (f : Frame) (now : Time) (s : State) :
    SendsNothing s (onCurrentAck P f now s) := by
  unfold onCurrentAck
  split
  · exact .of_events (evs := [.reading _, .snapshot _]) rfl (List.append_assoc ..) rfl rfl rfl
  · exact sendsNothing_emit rfl s

/-- The refusal's automatic send is left out once it is spent (R181). -/
theorem sendsNothing_onSecurityRefusal (P : Params) (hspent : s.autoSpent = true) :
    SendsNothing s (onSecurityRefusal P s) := by
  simp only [onSecurityRefusal, hspent, if_true]
  exact .of_events (evs := [.securityNeeded]) rfl rfl rfl rfl rfl

theorem sendsNothing_onCurrentValue (P : Params) (st : Status) (f : Frame) (now : Time) (hspent : s.autoSpent = true) :
    SendsNothing s (onCurrentValue P st f now s) := by
  cases st with
  | ack => exact sendsNothing_onCurrentAck P f now s
  | refuse r =>
    simp only [onCurrentValue]
    split
    · exact sendsNothing_onSecurityRefusal P hspent
    · exact sendsNothing_emit rfl s
  | busy => exact sendsNothing_emit rfl s
  | unknown x => exact sendsNothing_emit rfl s
  | missing => exact sendsNothing_emit rfl s

/-- Settles O50: the frame is dispatched as a current-value response, and no handler of one sends while the automatic send
is spent. -/
theorem spentPasscodeIsNotSentAgain : Obligations.SpentPasscodeIsNotSentAgain := by
  unfold Obligations.SpentPasscodeIsNotSentAgain
  intro f now s hspent hcommand
  have hclass : classify Config.wpe f.command = some .currentValue :=
    hcommand ▸ classify_respCode Config.wpe_valid .currentValue
  have hlogged : SendsNothing (begin s) (emit (.logRx f (correlate f (begin s)).1) (correlate f (begin s)).2) :=
    (sendsNothing_correlate f _).trans (sendsNothing_emit rfl _)
  have hsent : SendsNothing (begin s) (receive Config.wpe f now (begin s)) := by
    simp only [receive, hclass, handle]
    exact hlogged.trans (sendsNothing_onCurrentValue _ _ f now (hlogged.autoSpent.trans hspent))
  exact ⟨_, rfl, hsent.written, hsent.defer, hsent.seq, hsent.autoSpent.trans hspent⟩

end Sys2Proof.Machine
end

section
/-! SUPPORT. What an operation encodes stands behind all that was written out or deferred before it, numbered on from the
sequence counter (spec/20_memory.md R71, spec/43_session.md R171, R203). -/

namespace Sys2Proof.Machine

variable {s t u : State}

/-! ### Frames on their way out -/

/-- The frames the operation in progress has written out, then those deferred, oldest first (R71). -/
def outbound (s : State) : List Bytes := txBytes s.events ++ s.defer

/-- Nothing is deferred while a write channel is there (R203): the premise under which a frame may be written at once
without overtaking another. -/
def Flushed (s : State) : Prop := s.writeAvail = true → s.defer = []

/-- The frames encoded from one state to another stand behind all that was outbound, and take the sequence numbers from
the first state's counter up to the second's (R71, R171). -/
def EncodesInOrder (s t : State) : Prop :=
  ∃ new, outbound t = outbound s ++ new ∧ SentFrom s.seq new ∧ t.seq = s.seq + BitVec.ofNat 8 new.length

/-- Where no sequence number is taken and nothing becomes or ceases to be outbound, no frame was encoded. -/
theorem EncodesInOrder.of_outbound_eq (hout : outbound t = outbound s) (hseq : t.seq = s.seq) : EncodesInOrder s t :=
  ⟨[], by rw [hout, List.append_nil], trivial, by simp [hseq]⟩

theorem EncodesInOrder.refl (s : State) : EncodesInOrder s s := .of_outbound_eq rfl rfl

theorem EncodesInOrder.trans (h : EncodesInOrder s t) (g : EncodesInOrder t u) : EncodesInOrder s u := by
  obtain ⟨first, hout, hsent, hseq⟩ := h
  obtain ⟨second, gout, gsent, gseq⟩ := g
  refine ⟨first ++ second, ?_, ?_, ?_⟩
  · rw [gout, hout, List.append_assoc]
  · exact sentFrom_append.mpr ⟨hsent, hseq ▸ gsent⟩
  · rw [gseq, hseq, List.length_append, BitVec.ofNat_add, add_assoc]

theorem SendsNothing.encodesInOrder (h : SendsNothing s t) : EncodesInOrder s t :=
  .of_outbound_eq (by rw [outbound, h.written, h.defer, outbound]) h.seq

/-- Further events of other streams than the byte-write sink, with the queue and the counter as they were (R261). -/
theorem EncodesInOrder.of_events {evs : List Event} (hsilent : txBytes evs = []) (hevents : t.events = s.events ++ evs)
    (hdefer : t.defer = s.defer) (hseq : t.seq = s.seq) : EncodesInOrder s t :=
  .of_outbound_eq (by rw [outbound, hevents, txBytes_append, hsilent, List.append_nil, hdefer, outbound]) hseq

theorem encodesInOrder_emit {e : Event} (he : txBytes [e] = []) (s : State) : EncodesInOrder s (emit e s) :=
  (sendsNothing_emit he s).encodesInOrder

theorem encodesInOrder_raise (k : ErrorKind) (s : State) : EncodesInOrder s (raise k s) := encodesInOrder_emit rfl s

theorem encodesInOrder_answer (r : Result) (s : State) : EncodesInOrder s (answer r s) := .of_outbound_eq rfl rfl

/-! ### Sending -/

/-- One frame with the counter's number, put behind all that was outbound (R171). -/
theorem EncodesInOrder.of_one_frame {b : Bytes} (hout : outbound t = outbound s ++ [b]) (hframe : SentFrame s.seq b)
    (hseq : t.seq = s.seq + 1) : EncodesInOrder s t :=
  ⟨[b], hout, ⟨hframe, trivial⟩, hseq⟩

/-- A frame written at once stands last, because with a channel nothing is deferred behind it (R171, R203). -/
theorem outbound_transmit (hdefer : s.defer = []) (b : Bytes) : outbound (transmit b s) = outbound s ++ [b] := by
  simp [outbound, hdefer, txBytes_append, txBytes]

/-- A deferred frame stands last in the queue (R173). -/
theorem outbound_pushDefer (b : Bytes) (s : State) : outbound (pushDefer b s) = outbound s ++ [b] :=
  (List.append_assoc ..).symm

theorem encodesInOrder_doSend (hflushed : Flushed s) (c : Command) (p : Bytes) :
    EncodesInOrder s (doSend Config.wpe c p s).state := by
  rcases doSend_cases Config.wpe c p s with ⟨-, h⟩ | ⟨-, -, -, h⟩ | ⟨hp, hw, h⟩ | ⟨hp, -, -, h⟩ <;> rw [h]
  · exact encodesInOrder_raise _ s
  · exact encodesInOrder_raise _ s
  · have hempty : (sendTaken Config.wpe c s).defer = [] := hflushed hw
    exact .of_one_frame (outbound_transmit hempty _) (sentFrame_sendBytes hp) rfl
  · exact .of_one_frame (outbound_pushDefer _ (sendTaken Config.wpe c s)) (sentFrame_sendBytes hp) rfl

/-! ### Receiving -/

/-- The host's answer touches neither channel nor queue, so the automatic send is a send like any other (R181). -/
theorem encodesInOrder_autoUnlock (hflushed : Flushed s) (id : DeviceId) :
    EncodesInOrder s (autoUnlock Config.wpe id s) := by
  have hasked : EncodesInOrder s (askPasscode id s).2 := by
    rw [askPasscode_state]
    exact .of_outbound_eq rfl rfl
  have hstill : Flushed (askPasscode id s).2 := by
    rw [askPasscode_state]
    exact hflushed
  rcases autoUnlock_cases Config.wpe id s with ⟨-, h⟩ | ⟨-, -, -, h⟩ | ⟨-, p, -, -, h⟩ <;> rw [h]
  · exact hasked
  · exact hasked.trans (encodesInOrder_raise _ _)
  · have hsent := hasked.trans (encodesInOrder_doSend hstill .passcode p)
    split
    · exact hsent.trans (.of_outbound_eq rfl rfl)
    · exact hsent

theorem encodesInOrder_onSecurityRefusal (hflushed : Flushed s) :
    EncodesInOrder s (onSecurityRefusal Config.wpe s) := by
  have hlocked : EncodesInOrder s (emit .securityNeeded (setFsm s.fsm.onSecurityRefusal (setUnlocked false s))) :=
    .of_events (evs := [.securityNeeded]) rfl rfl rfl rfl
  have hstill : Flushed (emit .securityNeeded (setFsm s.fsm.onSecurityRefusal (setUnlocked false s))) := hflushed
  unfold onSecurityRefusal
  dsimp only
  split
  · exact hlocked
  · split
    · exact hlocked
    · exact hlocked.trans (encodesInOrder_autoUnlock hstill _)

theorem encodesInOrder_onCurrentValue (hflushed : Flushed s) (st : Status) (f : Frame) (now : Time) :
    EncodesInOrder s (onCurrentValue Config.wpe st f now s) := by
  cases st <;> simp only [onCurrentValue]
  case ack => exact (sendsNothing_onCurrentAck Config.wpe f now s).encodesInOrder
  case refuse r =>
    split
    · exact encodesInOrder_onSecurityRefusal hflushed
    · exact encodesInOrder_raise _ s
  all_goals exact encodesInOrder_emit rfl s

/-- A recording-settings response ends in one event for the host and sends nothing (R184, R185). -/
theorem encodesInOrder_onRecordingSettings (st : Status) (f : Frame) (s : State) :
    EncodesInOrder s (onRecordingSettings Config.wpe st f s) := by
  cases st <;> simp only [onRecordingSettings]
  case ack =>
    unfold onSettingsAck
    split
    · exact .of_events (evs := [.snapshot _]) rfl rfl rfl rfl
    · exact encodesInOrder_emit rfl s
  all_goals exact .of_events (evs := [.snapshot _]) rfl rfl rfl rfl

theorem encodesInOrder_onPasscode (st : Status) (s : State) : EncodesInOrder s (onPasscode st s) := by
  cases st with
  | ack => exact .of_events (evs := [.unlocked, .pollStart]) rfl (List.append_assoc ..) rfl rfl
  | refuse r => exact .of_events (evs := [.error (.passcodeRejected r)]) rfl rfl rfl rfl
  | busy => exact encodesInOrder_emit rfl s
  | unknown x => exact encodesInOrder_emit rfl s
  | missing => exact encodesInOrder_emit rfl s

theorem encodesInOrder_onWrite (hflushed : Flushed s) (c : Command) (st : Status) :
    EncodesInOrder s (onWrite Config.wpe c st s) := by
  cases st with
  | ack => exact encodesInOrder_doSend hflushed _ _
  | refuse r => exact encodesInOrder_raise _ s
  | busy => exact encodesInOrder_emit rfl s
  | unknown x => exact encodesInOrder_emit rfl s
  | missing => exact encodesInOrder_emit rfl s

theorem encodesInOrder_handle (hflushed : Flushed s) (c : Command) (st : Status) (f : Frame) (now : Time) :
    EncodesInOrder s (handle Config.wpe c st f now s) := by
  cases c with
  | currentValue => exact encodesInOrder_onCurrentValue hflushed st f now
  | recordingSettings => exact encodesInOrder_onRecordingSettings st f s
  | passcode => exact encodesInOrder_onPasscode st s
  | settingsWrite => exact encodesInOrder_onWrite hflushed _ st
  | start => exact encodesInOrder_onWrite hflushed _ st
  | stop => exact encodesInOrder_onWrite hflushed _ st

theorem encodesInOrder_receive (hflushed : Flushed s) (f : Frame) (now : Time) :
    EncodesInOrder s (receive Config.wpe f now s) := by
  have hlogged : EncodesInOrder s (emit (.logRx f (correlate f s).1) (correlate f s).2) :=
    (sendsNothing_correlate f s).encodesInOrder.trans (encodesInOrder_emit rfl _)
  have hstill : Flushed (emit (.logRx f (correlate f s).1) (correlate f s).2) := by
    rw [correlate_state]
    exact hflushed
  rcases receive_cases Config.wpe f now s with ⟨-, h⟩ | ⟨c, -, h⟩ <;> rw [h]
  · exact hlogged.trans (encodesInOrder_emit rfl _)
  · exact hlogged.trans (encodesInOrder_handle hstill c _ f now)

/-- Each frame of a notification is received in a state that meets the invariant again (R160). -/
theorem encodesInOrder_receiveAll (hs : Inv s) (now : Time) (fs : List Frame) :
    EncodesInOrder s (receiveAll Config.wpe now fs s) := by
  induction fs generalizing s with
  | nil => exact .refl s
  | cons f rest ih =>
    have harrived : Inv (emit (.arrival now) s) := hs.after_emit _
    have hreceived := (encodesInOrder_emit rfl s).trans (encodesInOrder_receive harrived.flushed f now)
    exact hreceived.trans (ih (harrived.after_receive f now))

/-! ### The operations of the port -/

theorem txBytes_map_logCrcFail (fails : List Bytes) : txBytes (fails.map Event.logCrcFail) = [] := by
  induction fails with
  | nil => rfl
  | cons b rest ih => exact ih

/-- The assembler logs failed candidates and sends nothing (R154). -/
theorem encodesInOrder_assemble (chunk : Bytes) (s : State) : EncodesInOrder s (assemble Config.wpe chunk s).2 :=
  .of_events (txBytes_map_logCrcFail _) rfl rfl rfl

theorem encodesInOrder_wpeNotify (hs : Inv s) (chunk : Bytes) (now : Time) :
    EncodesInOrder (begin s) (wpeNotifyWith Config.wpe chunk now s) :=
  ((encodesInOrder_assemble chunk (begin s)).trans
    (encodesInOrder_receiveAll (hs.after_begin.after_assemble chunk) now _)).trans (encodesInOrder_answer _ _)

theorem encodesInOrder_fcEncode (cmd seq : Byte) (p : Bytes) (brk : Bool) (s : State) :
    EncodesInOrder (begin s) (fcEncodeWith Config.wpe cmd seq p brk s) := by
  unfold fcEncodeWith
  split
  · exact encodesInOrder_raise _ _
  · exact encodesInOrder_answer _ _

theorem encodesInOrder_csPassenc (text : Text) (s : State) :
    EncodesInOrder (begin s) (csPassencWith Config.wpe text s) := by
  unfold csPassencWith
  split
  · exact encodesInOrder_raise _ _
  · exact encodesInOrder_answer _ _

theorem encodesInOrder_csSend (hflushed : Flushed (begin s)) (c : BitVec 3) (p : Bytes) :
    EncodesInOrder (begin s) (csSendWith Config.wpe c p s) := by
  unfold csSendWith
  split
  · exact encodesInOrder_raise _ _
  · exact encodesInOrder_doSend hflushed _ p

theorem encodesInOrder_csUnlock (hflushed : Flushed (begin s)) (text : Text) :
    EncodesInOrder (begin s) (csUnlockWith Config.wpe text s) := by
  unfold csUnlockWith
  split
  · exact encodesInOrder_raise _ _
  · exact encodesInOrder_doSend hflushed _ _

theorem encodesInOrder_csConnect {id : DeviceId} {brk : Bool} (h : exec (.csConnect id brk) s = .next t) :
    EncodesInOrder (begin s) t := by
  cases h
  split
  · exact .of_outbound_eq rfl rfl
  · exact encodesInOrder_raise _ _

/-- Flushing moves the frames from the queue to the sink and leaves their order as it was (R203). -/
theorem outbound_flush (s : State) : outbound (flush s) = outbound s := by
  rw [flush_eq, outbound, txBytes_append, txBytes_flushEvents, List.append_nil, outbound]

theorem seq_flush (s : State) : (flush s).seq = s.seq := by
  rw [flush_eq]

theorem encodesInOrder_csChannel {w : Bool} (h : exec (.csChannel w) s = .next t) : EncodesInOrder (begin s) t := by
  cases h
  split
  case isTrue => exact encodesInOrder_raise _ _
  case isFalse =>
    split
    · exact .of_outbound_eq (outbound_flush _) (seq_flush _)
    · exact .of_outbound_eq rfl rfl

/-- Every operation that does not discard the queue sends in order. -/
theorem exec_encodesInOrder {i : Instr} (hs : Inv s) (hdisconnect : i ≠ .csDisconnect) (hreset : i ≠ .wpeReset)
    (h : exec i s = .next t) : EncodesInOrder (begin s) t := by
  cases i with
  | wpeReset => exact absurd rfl hreset
  | wpeNotify chunk now => cases h; exact encodesInOrder_wpeNotify hs chunk now
  | crcInit => cases h; exact .of_outbound_eq rfl rfl
  | crcUpdate b => cases h; exact .of_outbound_eq rfl rfl
  | crcRead => cases h; exact encodesInOrder_answer _ _
  | crcBlock data => cases h; exact .of_outbound_eq rfl rfl
  | fcEncode cmd seq p brk => cases h; exact encodesInOrder_fcEncode cmd seq p brk s
  | fcDecode data => cases h; exact encodesInOrder_answer _ _
  | faAppend chunk => cases h; exact (encodesInOrder_assemble chunk (begin s)).trans (encodesInOrder_answer _ _)
  | faReset => cases h; exact .of_outbound_eq rfl rfl
  | csSend c p => cases h; exact encodesInOrder_csSend hs.after_begin.flushed c p
  | csRecv f now => cases h; exact encodesInOrder_receive hs.after_begin.flushed f now
  | csConnect id brk => exact encodesInOrder_csConnect h
  | csChannel w => exact encodesInOrder_csChannel h
  | csPollstate p => cases h; exact .of_outbound_eq rfl rfl
  | csDisconnect => exact absurd rfl hdisconnect
  | csPassenc text => cases h; exact encodesInOrder_csPassenc text s
  | csUnlock text => cases h; exact encodesInOrder_csUnlock hs.after_begin.flushed text
  | illegalOp op => cases h; exact encodesInOrder_raise _ _
  | frame cmd seq p crc => cases h; exact encodesInOrder_answer _ _
  | status p => cases h; exact encodesInOrder_answer _ _
  | passcode a b c d e f g k => cases h; exact encodesInOrder_csPassenc _ s
  | commandClass b => cases h; exact encodesInOrder_answer _ _

/-- Settles O51: the deferred frames end at the counter by the invariant, and the operation's own frames stand behind them
and are numbered on from there. -/
theorem outboundFramesKeepSequenceOrder : Obligations.OutboundFramesKeepSequenceOrder := by
  unfold Obligations.OutboundFramesKeepSequenceOrder
  intro i s t hs hdisconnect hreset h
  obtain ⟨new, hout, hsent, hseq⟩ := exec_encodesInOrder hs hdisconnect hreset h
  have hbehind : txBytes t.events ++ t.defer = s.defer ++ new := hout
  have hcounter : s.seq - BitVec.ofNat 8 s.defer.length + BitVec.ofNat 8 s.defer.length = s.seq :=
    BitVec.sub_add_cancel ..
  refine ⟨?_, new, hbehind, hseq⟩
  rw [hbehind, sentFrom_append, hcounter]
  exact ⟨hs.deferFrames, hsent⟩

end Sys2Proof.Machine
end

section
/-! SUPPORT. The decoder against the tables (spec/30_encoding.md R80, R93, R95, R96): which codes select an operation, the
operand forms the encoder writes and the decoder reads, and that decoding an encoding gives the instruction back. -/

namespace Sys2Proof

/-! ### Operation codes -/

/-- The code of an operation selects that operation: the 18 codes are pairwise distinct (R95). -/
@[simp] theorem OpName.ofCode_code (o : OpName) : OpName.ofCode o.code = some o := by
  cases o <;> rfl

/-- A code selects no operation exactly when it is not among the table's 18 (R96). -/
theorem OpName.ofCode_eq_none_iff {b : Byte} : OpName.ofCode b = none ↔ b ∉ OpName.all.map OpName.code := by
  simp [OpName.ofCode]

theorem decode_op_code (o : OpName) (operands : List Operand) :
    decode (.op o.code operands) = decodeOperands o operands := by
  simp [decode]

/-- Outside the table the operands are not looked at (R96). -/
theorem decode_op_of_ofCode_eq_none {b : Byte} (h : OpName.ofCode b = none) (operands : List Operand) :
    decode (.op b operands) = .ok (.illegalOp b) := by
  simp [decode, h]

/-! ### Operand forms -/

@[simp] theorem bitOf_toBit (b : Bool) : bitOf (toBit b) = b := by
  cases b <;> rfl

@[simp] theorem pstateOf_bit (p : PState) : pstateOf p.bit = p := by
  cases p <;> rfl

/-- A frame operand is read where two bytes hold its length (R50). -/
theorem decodeOperands_csRecv {f : Frame} (h : f.length ≤ Config.maxPayload) (now : Time) :
    decodeOperands .csRecv [.frame f, .time now] = .ok (.csRecv f now) := by
  simp [decodeOperands, h]

/-! ### Passcode bytes -/

@[simp] theorem nibblesOf_ofNibbles (a b : BitVec 4) : nibblesOf (ofNibbles a b) = (a, b) := by
  have hhigh : (a ++ b).extractLsb' 4 4 = a := BitVec.extractLsb'_append_eq_left
  have hlow : (a ++ b).extractLsb' 0 4 = b := BitVec.extractLsb'_append_eq_right
  simp [nibblesOf, ofNibbles, hhigh, hlow]

theorem digitOk_iff {d : BitVec 4} : digitOk d = true ↔ d.toNat ≤ 9 := by
  simp [digitOk]

/-- Four bytes of two digits each are read as the eight digits, in order (R93). -/
theorem readPasscode_ofNibbles {a b c d e f g h : BitVec 4} (hdigits : [a, b, c, d, e, f, g, h].all digitOk = true) :
    readPasscode [ofNibbles a b, ofNibbles c d, ofNibbles e f, ofNibbles g h] = some (.passcode a b c d e f g h) := by
  simp only [List.all_cons, List.all_nil, Bool.and_eq_true, digitOk_iff] at hdigits
  simp [readPasscode, hdigits]

/-! ### Decoding an encoding -/

/-- Settles O55: the tables' rows evaluate; the rest turns on the two one-bit operand types, the frame operand's length, the
wire frame's layout, the passcode's nibbles, and on an illegal code standing outside the table. -/
theorem decodeOfEncodeIsInstruction : Obligations.DecodeOfEncodeIsInstruction := by
  unfold Obligations.DecodeOfEncodeIsInstruction
  intro i hwf
  cases i with
  | fcEncode cmd seq payload brk => exact (decode_op_code .fcEncode _).trans (by simp [decodeOperands])
  | csConnect id brk => exact (decode_op_code .csConnect _).trans (by simp [decodeOperands])
  | csChannel w => exact (decode_op_code .csChannel _).trans (by simp [decodeOperands])
  | csPollstate p => exact (decode_op_code .csPollstate _).trans (by simp [decodeOperands])
  | csRecv f now =>
    have hlength : f.length ≤ Config.maxPayload := by simpa [Instr.wf, Frame.lengthOk] using hwf
    exact (decode_op_code .csRecv _).trans (decodeOperands_csRecv hlength now)
  | illegalOp op =>
    have hcode : OpName.ofCode op = none := by simpa [Instr.wf, inTable] using hwf
    exact decode_op_of_ofCode_eq_none hcode []
  | frame cmd seq payload crc =>
    have hlength : payload.length ≤ Config.maxPayload := by simpa [Instr.wf] using hwf
    simp [encode, decode, readWireFrame_bytes ⟨cmd, seq, payload, crc⟩ hlength]
  | passcode a b c d e f g h => simp [encode, decode, readPasscode_ofNibbles hwf]
  | wpeReset | wpeNotify | crcInit | crcUpdate | crcRead | crcBlock => rfl
  | fcDecode | faAppend | faReset | csSend | csDisconnect | csPassenc | csUnlock => rfl
  | status | commandClass => rfl

/-- Settles O56: each word is evaluated, the two in wire formats through their byte layout. -/
theorem writtenWordsDecode : Obligations.WrittenWordsDecode := by
  unfold Obligations.WrittenWordsDecode
  exact ⟨rfl, rfl, rfl, rfl, rfl, by decide, by decide, rfl⟩

end Sys2Proof
end

section
/-! SUPPORT. The small decoders of operands and payloads, said once each: the class operand and the status byte
(spec/30_encoding.md R90, R91), the passcode text as digits and as bytes (R93), and the operations that answer with
their values (R96, spec/43_session.md R195). -/

namespace Sys2Proof.Machine

variable {P : Params}

/-! ### The class operand and the illegal operation -/

/-- Six of the eight class operands name a class (R91, R96). -/
theorem commandOfCode_eq_none_iff {c : BitVec 3} : commandOfCode c = none ↔ c = 6 ∨ c = 7 := by
  revert c
  decide

theorem exec_illegalOp (op : Byte) (s : State) :
    exec (.illegalOp op) s = .next { s with result := .none, events := [.error (.illegalOp op)] } := rfl

/-- A class operand that names no class is an error of the operation and no send (R96). -/
theorem exec_csSend_of_commandOfCode_eq_none {c : BitVec 3} (h : commandOfCode c = none) (payload : Bytes) (s : State) :
    exec (.csSend c payload) s = .next { s with result := .none, events := [.error (.illegalOperand c)] } := by
  simp [exec, execCsSend, csSendWith, h, raise, emit, begin]

/-- Settles O57: the listed codes are those of the table's operations, and 6 and 7 are the class operands without a class. -/
theorem illegalOpRaisesErrorOnly : Obligations.IllegalOpRaisesErrorOnly := by
  unfold Obligations.IllegalOpRaisesErrorOnly
  refine ⟨?outside, exec_illegalOp, ?operand⟩
  case outside =>
    intro op operands hop
    exact decode_op_of_ofCode_eq_none (OpName.ofCode_eq_none_iff.mpr hop) operands
  case operand =>
    intro v payload s hv
    exact exec_csSend_of_commandOfCode_eq_none (commandOfCode_eq_none_iff.mpr hv) payload s

/-! ### The status byte -/

/-- A byte that is neither STATUS_ACK nor STATUS_BUSY nor a refusal is unknown (R90). -/
theorem statusOf_unknown {v : Byte} (hack : v ≠ 0x00) (hbusy : v ≠ P.statusBusy) (hrefuse : P.refuses v = false)
    (rest : Bytes) : statusOf P (v :: rest) = .unknown v := by
  have hnotAck : v ≠ Config.statusAck := hack
  simp [statusOf, hnotAck, hbusy, hrefuse]

/-- Settles O44: one law per kind of status byte, which the constraints of R9 keep apart. -/
theorem statusByteIsDecoded : Obligations.StatusByteIsDecoded := by
  unfold Obligations.StatusByteIsDecoded
  intro P hP
  refine ⟨statusOf_nil, fun v rest => ⟨?ack, ?busy, ?refuse, ?unknown⟩⟩
  case ack =>
    rintro rfl
    exact statusOf_ack rest
  case busy =>
    rintro rfl
    exact statusOf_busy hP rest
  case refuse =>
    intro hrefuse
    exact statusOf_refuse hP hrefuse rest
  case unknown =>
    intro hack hbusy hrefuse
    exact statusOf_unknown hack hbusy hrefuse rest

/-! ### Numeric characters -/

theorem digitOf_eq_some_iff {ch : Char} {d : Nat} : digitOf ch = some d ↔ d ≤ 9 ∧ ch.toNat = 0x30 + d := by
  simp only [digitOf, Option.ite_none_right_eq_some, Option.some.injEq]
  omega

/-- Each digit has one numeric character (R93). -/
theorem digitOf_leftUnique : Relator.LeftUnique (fun (ch : Char) (d : Nat) => digitOf ch = some d) := by
  intro x d y hx hy
  rw [digitOf_eq_some_iff] at hx hy
  exact Char.toNat_inj.mp (hx.2.trans hy.2.symm)

theorem digitOf_ofNat {n : Nat} (h : n ≤ 9) : digitOf (Char.ofNat (0x30 + n)) = some n := by
  have hvalid : (0x30 + n).isValidChar := .inl (by omega)
  rw [digitOf_eq_some_iff, Char.toNat_ofNat, if_pos hvalid]
  exact ⟨h, rfl⟩

/-- The digits of a text stand for its characters one by one (R93). -/
theorem digitsOf_eq_some_iff {text : Text} {ds : List Nat} :
    digitsOf text = some ds ↔ List.Forall₂ (fun ch d => digitOf ch = some d) text ds := by
  induction text generalizing ds with
  | nil => simp [digitsOf, eq_comm]
  | cons ch rest ih =>
    rw [List.forall₂_cons_left_iff]
    simp only [← ih, digitsOf]
    cases digitOf ch <;> cases digitsOf rest <;> simp [eq_comm]

/-- Digits written as their numeric characters are read back. -/
theorem digitsOf_map {α : Type} {char : α → Char} {value : α → Nat} {ds : List α}
    (h : ∀ d ∈ ds, digitOf (char d) = some (value d)) : digitsOf (ds.map char) = some (ds.map value) := by
  rw [digitsOf_eq_some_iff, List.forall₂_map_left_iff, List.forall₂_map_right_iff, List.forall₂_same]
  exact h

/-- A text that has digits holds numeric characters only, and its digits are at most 9 (R93). -/
theorem numeric_of_digitsOf {text : Text} {ds : List Nat} (h : digitsOf text = some ds) :
    (∀ ch ∈ text, 0x30 ≤ ch.toNat ∧ ch.toNat ≤ 0x39) ∧ ∀ d ∈ ds, d ≤ 9 := by
  induction digitsOf_eq_some_iff.mp h with
  | nil => simp
  | cons hhead hrest ih =>
    obtain ⟨hd, hch⟩ := digitOf_eq_some_iff.mp hhead
    obtain ⟨htext, hdigits⟩ := ih (digitsOf_eq_some_iff.mpr hrest)
    exact ⟨List.forall_mem_cons.mpr ⟨by omega, htext⟩, List.forall_mem_cons.mpr ⟨hd, hdigits⟩⟩

/-! ### The passcode's bytes -/

/-- Packed BCD: the first digit in the high nibble (R93). -/
theorem packDigits_toNat (a b : BitVec 4) : packDigits .packedBcd a.toNat b.toNat = a ++ b := by
  apply BitVec.eq_of_toNat_eq
  have ha : a.toNat < 16 := a.isLt
  have hb : b.toNat < 16 := b.isLt
  simp only [packDigits, BitVec.toNat_append, BitVec.toNat_ofNat]
  rw [← Nat.shiftLeft_add_eq_or_of_lt (by exact hb), Nat.shiftLeft_eq]
  omega

/-- A packed byte determines its two digits (R93). -/
theorem packDigits_injective {a b c d : Nat} (ha : a ≤ 9) (hb : b ≤ 9) (hc : c ≤ 9) (hd : d ≤ 9)
    (h : packDigits .packedBcd a b = packDigits .packedBcd c d) : a = c ∧ b = d := by
  have h' := congrArg BitVec.toNat h
  simp only [packDigits, BitVec.toNat_ofNat] at h'
  omega

/-- The bytes of eight digits (R93). -/
theorem passenc_of_digits {text : Text} {d0 d1 d2 d3 d4 d5 d6 d7 : Nat}
    (h : digitsOf text = some [d0, d1, d2, d3, d4, d5, d6, d7]) :
    passenc P text = some [packDigits P.packing d0 d1, packDigits P.packing d2 d3, packDigits P.packing d4 d5,
      packDigits P.packing d6 d7] := by
  simp [passenc, h]

/-- An accepted text has eight digits, and its bytes are theirs (R93). -/
theorem digits_of_passenc {text : Text} {p : Bytes} (h : passenc P text = some p) :
    ∃ d0 d1 d2 d3 d4 d5 d6 d7, digitsOf text = some [d0, d1, d2, d3, d4, d5, d6, d7] ∧
      p = [packDigits P.packing d0 d1, packDigits P.packing d2 d3, packDigits P.packing d4 d5,
        packDigits P.packing d6 d7] := by
  unfold passenc at h
  split at h
  case h_1 hdigits => exact ⟨_, _, _, _, _, _, _, _, hdigits, (Option.some.inj h).symm⟩
  case h_2 => cases h

/-- A text of another length, or with a character that is not numeric, is not accepted (R93). -/
theorem passenc_eq_none {text : Text} (h : text.length ≠ 8 ∨ ∃ ch ∈ text, ch.toNat < 0x30 ∨ 0x39 < ch.toNat) :
    passenc P text = none := by
  by_contra haccepted
  obtain ⟨p, hp⟩ := Option.ne_none_iff_exists'.mp haccepted
  obtain ⟨_, _, _, _, _, _, _, _, hdigits, -⟩ := digits_of_passenc hp
  rcases h with hlength | ⟨ch, hmem, hch⟩
  · exact hlength (digitsOf_eq_some_iff.mp hdigits).length_eq
  · have hnumeric := (numeric_of_digitsOf hdigits).1 ch hmem
    omega

/-- Settles O28: the bytes determine the eight digits, and each digit has one character. -/
theorem passcodeBytesDetermineText : Obligations.PasscodeBytesDetermineText := by
  unfold Obligations.PasscodeBytesDetermineText
  intro u v p hu hv
  obtain ⟨a0, a1, a2, a3, a4, a5, a6, a7, hdu, hpu⟩ := digits_of_passenc hu
  obtain ⟨b0, b1, b2, b3, b4, b5, b6, b7, hdv, hpv⟩ := digits_of_passenc hv
  have hdigits : [a0, a1, a2, a3, a4, a5, a6, a7] = [b0, b1, b2, b3, b4, b5, b6, b7] := by
    have hbytes := hpu.symm.trans hpv
    simp only [Config.wpe_packing, List.cons.injEq, and_true] at hbytes
    obtain ⟨h01, h23, h45, h67⟩ := hbytes
    have ha := (numeric_of_digitsOf hdu).2
    have hb := (numeric_of_digitsOf hdv).2
    simp only [List.forall_mem_cons] at ha hb
    obtain ⟨ha0, ha1, ha2, ha3, ha4, ha5, ha6, ha7, -⟩ := ha
    obtain ⟨hb0, hb1, hb2, hb3, hb4, hb5, hb6, hb7, -⟩ := hb
    obtain ⟨rfl, rfl⟩ := packDigits_injective ha0 ha1 hb0 hb1 h01
    obtain ⟨rfl, rfl⟩ := packDigits_injective ha2 ha3 hb2 hb3 h23
    obtain ⟨rfl, rfl⟩ := packDigits_injective ha4 ha5 hb4 hb5 h45
    obtain ⟨rfl, rfl⟩ := packDigits_injective ha6 ha7 hb6 hb7 h67
    rfl
  rw [← hdigits] at hdv
  exact List.left_unique_forall₂' digitOf_leftUnique (digitsOf_eq_some_iff.mp hdu) (digitsOf_eq_some_iff.mp hdv)

/-! ### The operations that answer with the bytes -/

theorem exec_csPassenc_of_some {text : Text} {p : Bytes} (h : passenc Config.wpe text = some p) (s : State) :
    exec (.csPassenc text) s = .next { s with result := .bytes p, events := [] } := by
  simp [exec, execCsPassenc, csPassencWith, h, answer, begin]

theorem exec_csPassenc_of_none {text : Text} (h : passenc Config.wpe text = none) (s : State) :
    exec (.csPassenc text) s = .next { s with result := .none, events := [.error .validationPasscodeFormat] } := by
  simp [exec, execCsPassenc, csPassencWith, h, raise, emit, begin]

/-- Eight digits written as numeric characters, packed (R93, R195). -/
theorem exec_csPassenc_digits (d0 d1 d2 d3 d4 d5 d6 d7 : Fin 10) (s : State) :
    exec (.csPassenc ([d0, d1, d2, d3, d4, d5, d6, d7].map (fun d => Char.ofNat (0x30 + d.val)))) s =
      .next { s with
        result := .bytes [BitVec.ofNat 8 (16 * d0.val + d1.val), BitVec.ofNat 8 (16 * d2.val + d3.val),
          BitVec.ofNat 8 (16 * d4.val + d5.val), BitVec.ofNat 8 (16 * d6.val + d7.val)]
        events := [] } :=
  exec_csPassenc_of_some (passenc_of_digits (digitsOf_map fun d _ => digitOf_ofNat (by omega))) s

/-- Settles O27: eight digits are packed, every other text is refused; the document's examples are one of each. -/
theorem passencTakesExactlyEightDigits : Obligations.PassencTakesExactlyEightDigits := by
  unfold Obligations.PassencTakesExactlyEightDigits
  refine ⟨fun _ => rfl, exec_csPassenc_digits, ?refused, ?packedExample, ?shortExample⟩
  case refused =>
    intro text s h
    exact exec_csPassenc_of_none (passenc_eq_none h) s
  case packedExample =>
    intro s
    exact exec_csPassenc_digits 7 4 9 7 6 1 6 7 s
  case shortExample =>
    intro s
    exact exec_csPassenc_of_none (passenc_eq_none (.inl (by decide))) s

/-! ### The rows that are formats -/

/-- What `decode` answers on bytes with the layout of a frame: the checksum decides (R136, steps 6 and 7). -/
theorem decodeFrame_bytes {init : Word16} {w : WireFrame} (h : w.payload.length ≤ Config.maxPayload) :
    decodeFrame init w.bytes =
      if w.crc = crc16 init (frameHeader w.cmd w.seq w.payload.length ++ w.payload) then
        some ⟨w.cmd, w.seq, w.payload.length, w.payload, w.crc⟩ else none := by
  simp only [decodeFrame, readWireFrame_bytes w h, take_bytes, eq_comm]

/-- The row PASSCODE answers as CS.PASSENC does on the text of its digits (R93). -/
theorem exec_passcode_eq_csPassenc (a b c d e f g h : BitVec 4) (s : State) :
    exec (.passcode a b c d e f g h) s = exec (.csPassenc ([a, b, c, d, e, f, g, h].map digitChar)) s := rfl

/-- Eight decimal nibbles are the packed bytes themselves (R93). -/
theorem passenc_nibbles {a b c d e f g h : BitVec 4} (hdigits : ∀ x ∈ [a, b, c, d, e, f, g, h], x.toNat ≤ 9) :
    passenc Config.wpe ([a, b, c, d, e, f, g, h].map digitChar) = some [a ++ b, c ++ d, e ++ f, g ++ h] := by
  have htext := digitsOf_map (char := digitChar) fun x hx => digitOf_ofNat (hdigits x hx)
  simp only [passenc_of_digits htext, Config.wpe_packing, packDigits_toNat]

theorem exec_frame (cmd seq : Byte) (payload : Bytes) (crc : Word16) (s : State) :
    exec (.frame cmd seq payload crc) s =
      .next { s with
        result := .decoded (decodeFrame 0x0000 (WireFrame.bytes ⟨cmd, seq, payload, crc⟩))
        events := [] } := rfl

theorem exec_status (payload : Bytes) (s : State) :
    exec (.status payload) s = .next { s with result := .status (statusOf Config.wpe payload), events := [] } := rfl

theorem exec_commandClass (b : Byte) (s : State) :
    exec (.commandClass b) s = .next { s with result := .cls (classify Config.wpe b), events := [] } := rfl

/-- Settles O58: each row's meaning answers the value of its function, which the laws about that function give. -/
theorem formatRowsAnswerTheirValue : Obligations.FormatRowsAnswerTheirValue := by
  unfold Obligations.FormatRowsAnswerTheirValue
  refine ⟨?frame, exec_status, ?passcode, ?classOfCode, ?noClass⟩
  case frame =>
    intro cmd seq payload crc s hlength
    rw [exec_frame, decodeFrame_bytes hlength]
    rfl
  case passcode =>
    intro a b c d e f g h s hdigits
    rw [exec_passcode_eq_csPassenc]
    exact exec_csPassenc_of_some (passenc_nibbles hdigits) s
  case classOfCode =>
    intro c s
    rw [exec_commandClass, classify_respCode Config.wpe_valid]
  case noClass =>
    intro b s hb
    rw [exec_commandClass, classify_eq_none_iff.mpr hb]

end Sys2Proof.Machine
end

section
/-! SUPPORT. The checksum as a code (spec/40_crc_unit.md R110 to R112) and the checksum unit's operations (R113 to R116). A
byte is absorbed by eight shift steps and no shift step loses anything. So two strings that differ in one byte have different
checksums, and a checksum continued over two bytes is zero for its own two alone. -/

namespace Sys2Proof.Machine

/-! ### Shift steps -/

theorem crcShift_zero : crcShift 0 = 0 := rfl

/-- The generator has bit 0 set where a shift has cleared it, so bit 0 of the result tells what bit 15 was (R111). -/
theorem getLsbD_zero_crcShift (c : Word16) : (crcShift c).getLsbD 0 = c.msb := by
  cases h : c.msb <;> simp [crcShift, h, Config.crcPoly]

/-- Bit 0 of the result gives the lost bit back, and with it whether the generator was XORed in. -/
theorem crcShift_injective : Function.Injective crcShift := by
  intro c d h
  have hmsb : c.msb = d.msb := by rw [← getLsbD_zero_crcShift, h, getLsbD_zero_crcShift]
  have hshift : c <<< 1 = d <<< 1 := by
    cases hd : d.msb <;> simpa [crcShift, hmsb, hd] using h
  have hhigh : 2 * c.toNat ≥ 2 ^ 16 ↔ 2 * d.toNat ≥ 2 ^ 16 := by
    rw [← BitVec.msb_eq_true_iff_two_mul_ge, ← BitVec.msb_eq_true_iff_two_mul_ge, hmsb]
  bv_omega

/-- A shift step in the arithmetic of R111. -/
theorem crcShift_eq_ite (v : Word16) :
    crcShift v = if v.toNat / 32768 = 1 then BitVec.ofNat 16 (v.toNat * 2 % 65536) ^^^ 0x1021
      else BitVec.ofNat 16 (v.toNat * 2 % 65536) := by
  have hshift : v <<< 1 = BitVec.ofNat 16 (v.toNat * 2 % 65536) := by bv_omega
  have hmsb : v.msb = true ↔ v.toNat / 32768 = 1 := by
    rw [BitVec.msb_eq_true_iff_two_mul_ge]
    omega
  simp only [crcShift, hshift, hmsb, Config.crcPoly]

theorem crcShifts_eq_iterate (n : Nat) : crcShifts n = crcShift^[n] := by
  induction n with
  | zero => rfl
  | succ n ih => rw [Function.iterate_succ, ← ih]; rfl

theorem crcShifts_injective (n : Nat) : Function.Injective (crcShifts n) :=
  crcShifts_eq_iterate n ▸ crcShift_injective.iterate n

theorem crcShifts_zero (n : Nat) : crcShifts n 0 = 0 := by
  rw [crcShifts_eq_iterate, Function.iterate_fixed crcShift_zero]

/-- Nothing is XORed in while no set bit reaches position 15. -/
theorem crcShifts_eq_shiftLeft {n : Nat} {c : Word16} (h : c.toNat * 2 ^ n < 65536) : crcShifts n c = c <<< n := by
  induction n generalizing c with
  | zero => simp [crcShifts]
  | succ n ih =>
    have hsucc : c.toNat * 2 * 2 ^ n < 65536 := by rwa [mul_assoc, ← pow_succ']
    have hlow : c.toNat * 2 < 65536 := lt_of_le_of_lt (Nat.le_mul_of_pos_right _ (Nat.two_pow_pos n)) hsucc
    have hmsb : c.msb = false := by rw [BitVec.msb_eq_false_iff_two_mul_lt]; omega
    have hstep : crcShift c = c <<< 1 := by simp [crcShift, hmsb]
    have htwice : (c <<< 1).toNat = c.toNat * 2 := by bv_omega
    rw [crcShifts, hstep, ih (by rwa [htwice]), ← BitVec.shiftLeft_add, Nat.add_comm]

/-! ### One byte -/

theorem be16_toNat (h l : Byte) : (be16 h l).toNat = 256 * h.toNat + l.toNat := by
  rw [be16, BitVec.toNat_append, ← Nat.shiftLeft_add_eq_or_of_lt l.isLt, Nat.shiftLeft_eq]
  omega

theorem be16_xor_be16 (h l h' l' : Byte) : be16 h l ^^^ be16 h' l' = be16 (h ^^^ h') (l ^^^ l') :=
  BitVec.xor_append

theorem atHigh_eq_be16 (b : Byte) : atHigh b = be16 b 0 := rfl

theorem atHigh_eq_ofNat (b : Byte) : atHigh b = BitVec.ofNat 16 (b.toNat * 256) := by
  apply BitVec.eq_of_toNat_eq
  rw [atHigh_eq_be16, be16_toNat]
  bv_omega

theorem atHigh_injective : Function.Injective atHigh := by
  intro a b h
  simpa only [atHigh_eq_be16, hiByte_be16] using congrArg hiByte h

theorem crcStep_injective_left (b : Byte) : Function.Injective (crcStep · b) := fun _ _ h =>
  (BitVec.xor_left_inj _).mp (crcShifts_injective 8 h)

theorem crcStep_injective_right (c : Word16) : Function.Injective (crcStep c) := fun _ _ h =>
  atHigh_injective ((BitVec.xor_right_inj _).mp (crcShifts_injective 8 h))

/-- Absorbing the high byte of a value cancels it and moves the low byte up, where no shift step meets a set bit 15. -/
theorem crcStep_be16 (h l : Byte) : crcStep (be16 h l) h = atHigh l := by
  have hcancel : be16 h l ^^^ atHigh h = be16 0 l := by
    simp [atHigh_eq_be16, be16_xor_be16]
  have hlow : (be16 0 l).toNat = l.toNat := by rw [be16_toNat]; simp
  rw [crcStep, hcancel, crcShifts_eq_shiftLeft (by bv_omega), atHigh_eq_ofNat]
  bv_omega

theorem crcStep_eq_zero_iff {c : Word16} {b : Byte} : crcStep c b = 0 ↔ c = atHigh b := by
  rw [crcStep, ← crcShifts_zero 8, (crcShifts_injective 8).eq_iff]
  exact BitVec.xor_eq_zero_iff

/-- Settles O3: the model's shift step is the arithmetic one, and `n` of them are its iterate. -/
theorem crcStepIsEightShiftSteps : Obligations.CrcStepIsEightShiftSteps := by
  unfold Obligations.CrcStepIsEightShiftSteps
  intro c b
  rw [crcStep, crcShifts_eq_iterate, atHigh_eq_ofNat, funext crcShift_eq_ite]

/-! ### Byte strings -/

theorem crc16_append (init : Word16) (m b : Bytes) : crc16 init (m ++ b) = b.foldl crcStep (crc16 init m) :=
  crcOver_append init m b

theorem crcOver_injective (d : Bytes) : Function.Injective (crcOver · d) := by
  induction d with
  | nil => exact Function.injective_id
  | cons b d ih => exact ih.comp (crcStep_injective_left b)

/-- A checksum continued over two bytes vanishes only if they are the checksum itself (R112 (b)). -/
theorem crcOver_pair_eq_zero_iff {c : Word16} {h l : Byte} : crcOver c [h, l] = 0 ↔ be16 h l = c := by
  calc crcOver c [h, l] = 0
    _ ↔ crcStep c h = atHigh l := crcStep_eq_zero_iff
    _ ↔ crcStep c h = crcStep (be16 h l) h := by rw [crcStep_be16]
    _ ↔ c = be16 h l := (crcStep_injective_left h).eq_iff
    _ ↔ be16 h l = c := eq_comm

theorem crc16_append_pair_eq_zero_iff {init : Word16} {m : Bytes} {h l : Byte} :
    crc16 init (m ++ [h, l]) = 0 ↔ be16 h l = crc16 init m := by
  rw [crc16_append]
  exact crcOver_pair_eq_zero_iff

/-- Settles O6: the checksum's two bytes, put together again, are the checksum. -/
theorem crcResidueIsZero : Obligations.CrcResidueIsZero := by
  unfold Obligations.CrcResidueIsZero
  intro init m
  exact ⟨crc16_append init m, crc16_append_pair_eq_zero_iff.mpr (be16_hiByte_loByte _),
    fun _ _ => crc16_append_pair_eq_zero_iff⟩

/-! ### One changed byte -/

/-- The bytes after the place that differs keep the accumulators apart. -/
theorem crcOver_set_eq_iff {c : Word16} {b : Bytes} {i : Nat} (hi : i < b.length) (v : Byte) :
    crcOver c (b.set i v) = crcOver c b ↔ b[i]? = some v := by
  induction b generalizing c i with
  | nil => simp at hi
  | cons x b ih =>
    cases i with
    | zero =>
      simpa [eq_comm] using ((crcOver_injective b).comp (crcStep_injective_right c)).eq_iff (a := v) (b := x)
    | succ i => simpa using ih (by simpa using hi)

/-- Over a whole frame, its own checksum included, the checksum is zero (R112 (b)). -/
theorem crc16_eq_zero_of_decodeFrame {init : Word16} {b : Bytes} {f : Frame} (h : decodeFrame init b = some f) :
    crc16 init b = 0 := by
  obtain ⟨-, rfl⟩ := decodeFrame_eq_some_iff.mp h
  rw [encodeFrame_false, WireFrame.bytes, crc16_append_pair_eq_zero_iff, be16_hiByte_loByte]

/-- Settles O12: were the changed string a frame too, both would have the checksum zero. -/
theorem singleByteCorruptionDetected : Obligations.SingleByteCorruptionDetected := by
  unfold Obligations.SingleByteCorruptionDetected
  intro b f hb i v hi hv
  rw [Option.eq_none_iff_forall_ne_some]
  intro g hg
  have hsame : crc16 0x0000 (b.set i v) = crc16 0x0000 b := by
    rw [crc16_eq_zero_of_decodeFrame hg, crc16_eq_zero_of_decodeFrame hb]
  exact hv ((crcOver_set_eq_iff hi v).mp hsame)

/-! ### The operations -/

theorem exec_crcInit (s : State) :
    exec .crcInit s = .next { s with crc := Config.wpe.crcInit, result := .none, events := [] } := rfl

theorem exec_crcUpdate (b : Byte) (s : State) :
    exec (.crcUpdate b) s = .next { s with crc := crcStep s.crc b, result := .none, events := [] } := rfl

theorem exec_crcRead (s : State) : exec .crcRead s = .next { s with result := .value s.crc, events := [] } := rfl

theorem exec_crcBlock (d : Bytes) (s : State) :
    exec (.crcBlock d) s =
      .next { s with crc := crc16 0x0000 d, result := .value (crc16 0x0000 d), events := [] } := rfl

theorem execAll_cons_of_next {i : Instr} {s t : State} (h : exec i s = .next t) (rest : List Instr) :
    execAll (i :: rest) s = execAll rest t := by
  simp only [execAll, h]

/-- The unit may be fed a byte at a time (R112 (a)). -/
theorem execAll_crcUpdate_crcRead (d : Bytes) (s : State) :
    execAll (d.map Instr.crcUpdate ++ [.crcRead]) s =
      .next { s with crc := crcOver s.crc d, result := .value (crcOver s.crc d), events := [] } := by
  induction d generalizing s with
  | nil => exact execAll_cons_of_next (exec_crcRead s) []
  | cons b d ih =>
    rw [List.map_cons, List.cons_append, execAll_cons_of_next (exec_crcUpdate b s), ih]
    rfl

/-- CRC.BLOCK is a composite of the unit's other operations (spec/30_encoding.md R97). -/
theorem execAll_crcInit_crcUpdate_crcRead (d : Bytes) (s : State) :
    execAll (.crcInit :: d.map Instr.crcUpdate ++ [.crcRead]) s = exec (.crcBlock d) s := by
  rw [List.cons_append, execAll_cons_of_next (exec_crcInit s), execAll_crcUpdate_crcRead]
  rfl

/-- The document's vector X1 (spec/95_test_vectors.md). -/
theorem crc16_vectorX1 : crc16 0x0000 [0x01, 0x76, 0x00, 0x04, 0x00, 0x78, 0x56, 0x34, 0x12] = 0x0DBF := by decide +kernel

/-- Settles O5: the composite by the law of a message fed byte by byte, the vectors by running the function. -/
theorem crcBlockChecksumsData : Obligations.CrcBlockChecksumsData := by
  unfold Obligations.CrcBlockChecksumsData
  exact ⟨fun _ => rfl, exec_crcBlock, execAll_crcInit_crcUpdate_crcRead, rfl, crc16_vectorX1, by decide +kernel,
    by decide +kernel, by decide +kernel⟩

/-- Settles O1: CRC.READ answers what CRC.INIT loaded. -/
theorem crcInitLoadsInitialValue : Obligations.CrcInitLoadsInitialValue := by
  unfold Obligations.CrcInitLoadsInitialValue
  refine ⟨rfl, fun s => ⟨exec_crcInit s, ?read⟩⟩
  case read =>
    intro t ht
    obtain rfl : _ = t := Host.Outcome.next.inj ((exec_crcInit s).symm.trans ht)
    exact ⟨_, exec_crcRead _, rfl⟩

/-- Settles O2: from 0x0000 the byte's one set bit is shifted up to position 15, and the eighth step XORs the generator in. -/
theorem crcUpdateAbsorbsByte : Obligations.CrcUpdateAbsorbsByte := by
  unfold Obligations.CrcUpdateAbsorbsByte
  refine ⟨fun _ => rfl, exec_crcUpdate, ?fromZero, rfl⟩
  case fromZero =>
    intro s hs
    refine ⟨_, exec_crcUpdate 0x01 s, ?_⟩
    rw [hs]
    rfl

/-- Settles O4: the nine updates are those of a CRC.BLOCK of the document's vector. -/
theorem crcReadReturnsAccumulator : Obligations.CrcReadReturnsAccumulator := by
  unfold Obligations.CrcReadReturnsAccumulator
  refine ⟨rfl, exec_crcRead, ?vector⟩
  case vector =>
    intro s
    exact ⟨_, (execAll_crcInit_crcUpdate_crcRead _ s).trans (exec_crcBlock _ s), congrArg Result.value crc16_vectorX1⟩

end Sys2Proof.Machine
end

section
/-! SUPPORT. The frame codec as a pair of functions (spec/41_frame_codec.md R131, R136): on payloads that two length bytes
can count, `decode` takes back what `encode` writes, and nothing else. Then the operations FC.ENCODE and FC.DECODE
(R130, R135), which answer with these functions. -/

namespace Sys2Proof.Machine

/-! ### `encode` and `decode` -/

/-- The layout of R131: an encoding is its header, its payload and the checksum over both, after the break byte if asked
for. -/
theorem encodeFrame_layout (init : Word16) (cmd seq : Byte) (p : Bytes) (brk : Bool) :
    encodeFrame init cmd seq p brk =
      (if brk then [0x00] else []) ++ frameHeader cmd seq p.length ++ p ++
        [hiByte (crc16 init (frameHeader cmd seq p.length ++ p)),
          loByte (crc16 init (frameHeader cmd seq p.length ++ p))] := by
  cases brk with
  | false => rfl
  | true => rfl

/-- The round trip of R140: the checksum that `decode` computes is over the bytes that `encode` computed it over. -/
theorem decodeFrame_encodeFrame {init : Word16} {cmd seq : Byte} {p : Bytes} (hp : p.length ≤ Config.maxPayload) :
    decodeFrame init (encodeFrame init cmd seq p false) =
      some ⟨cmd, seq, p.length, p, crc16 init (frameHeader cmd seq p.length ++ p)⟩ := by
  rw [encodeFrame_false, decodeFrame_bytes hp, if_pos rfl]

/-- `decode` skips nothing, since the first byte of every frame is the start marker (R137). -/
theorem decodeFrame_eq_none_of_ne_soh {init : Word16} {x : Byte} (hx : x ≠ Config.soh) (rest : Bytes) :
    decodeFrame init (x :: rest) = none := by
  rw [Option.eq_none_iff_forall_ne_some]
  intro f hf
  obtain ⟨-, hbytes⟩ := decodeFrame_eq_some_iff.mp hf
  exact hx (List.cons.inj hbytes).1

/-- Settles O10: the break byte is no start marker, and behind it stands the encoding without one. -/
theorem breakByteMakesDecodeNil : Obligations.BreakByteMakesDecodeNil := by
  unfold Obligations.BreakByteMakesDecodeNil
  refine ⟨fun _ rest hx => decodeFrame_eq_none_of_ne_soh hx rest, ?withBreak, ?withoutBreak⟩
  case withBreak =>
    intro c s p
    rw [encodeFrame_true]
    exact decodeFrame_eq_none_of_ne_soh (by decide) _
  case withoutBreak =>
    intro c s p hp
    rw [encodeFrame_true, List.drop_one, List.tail_cons]
    exact ⟨_, decodeFrame_encodeFrame hp, rfl, rfl, rfl⟩

/-! ### The operations -/

theorem exec_fcEncode_of_le {p : Bytes} (hp : p.length ≤ Config.maxPayload) (cmd seq : Byte) (brk : Bool) (s : State) :
    exec (.fcEncode cmd seq p brk) s =
      .next { s with result := .bytes (encodeFrame 0x0000 cmd seq p brk), events := [] } :=
  congrArg Host.Outcome.next (if_neg (Nat.not_lt.mpr hp))

theorem exec_fcEncode_of_lt {p : Bytes} (hp : Config.maxPayload < p.length) (cmd seq : Byte) (brk : Bool) (s : State) :
    exec (.fcEncode cmd seq p brk) s =
      .next { s with result := .none, events := [.error (.payloadTooLong p.length)] } :=
  congrArg Host.Outcome.next (if_pos hp)

theorem exec_fcDecode (d : Bytes) (s : State) :
    exec (.fcDecode d) s = .next { s with result := .decoded (decodeFrame 0x0000 d), events := [] } := rfl

/-- Settles O9: each operation answers with its function, and `decode` accepts exactly the encodings of valid frames. -/
theorem codecRoundTrip : Obligations.CodecRoundTrip := by
  unfold Obligations.CodecRoundTrip
  refine ⟨?decodeOfEncode, ?encodeOfDecode⟩
  case decodeOfEncode =>
    intro cmd seq p s t b hp hexec hresult
    obtain rfl : _ = t := Host.Outcome.next.inj ((exec_fcEncode_of_le hp cmd seq false s).symm.trans hexec)
    obtain rfl : encodeFrame 0x0000 cmd seq p false = b := Result.bytes.inj hresult
    exact ⟨_, _, exec_fcDecode _ _, congrArg Result.decoded (decodeFrame_encodeFrame hp), rfl, rfl, rfl, rfl⟩
  case encodeOfDecode =>
    intro b s t f hexec hresult
    obtain rfl : _ = t := Host.Outcome.next.inj ((exec_fcDecode b s).symm.trans hexec)
    obtain ⟨hvalid, rfl⟩ := decodeFrame_eq_some_iff.mp (Result.decoded.inj hresult)
    obtain ⟨hlength, hmax, -⟩ := frameValid_iff.mp hvalid
    exact ⟨_, exec_fcEncode_of_le (hlength ▸ hmax) _ _ _ _, rfl⟩

/-! ### The document's examples -/

/-- R130's example: the checksum of its header and payload is the vector X1. -/
theorem encodeFrame_vectorX1 : encodeFrame 0x0000 0x76 0x00 [0x78, 0x56, 0x34, 0x12] false =
    [0x01, 0x76, 0x00, 0x04, 0x00, 0x78, 0x56, 0x34, 0x12, 0x0D, 0xBF] :=
  congrArg (fun k => WireFrame.bytes ⟨0x76, 0x00, [0x78, 0x56, 0x34, 0x12], k⟩) crc16_vectorX1

/-- The document's vector X2 (spec/95_test_vectors.md). -/
theorem crc16_vectorX2 : crc16 0x0000 [0x01, 0x33, 0x00, 0x04, 0x00, 0x00, 0x00, 0x00, 0x00] = 0x632B := by decide +kernel

/-- R135's first example: the vector X2 and its checksum are a wire frame. -/
theorem decodeFrame_vectorX2 :
    decodeFrame 0x0000 [0x01, 0x33, 0x00, 0x04, 0x00, 0x00, 0x00, 0x00, 0x00, 0x63, 0x2B] =
      some ⟨0x33, 0x00, 4, [0x00, 0x00, 0x00, 0x00], 0x632B⟩ :=
  (decodeFrame_bytes (w := ⟨0x33, 0x00, [0x00, 0x00, 0x00, 0x00], 0x632B⟩) (by decide)).trans
    (if_pos crc16_vectorX2.symm)

theorem toBit_eq_ite (k : Bool) : toBit k = if k then 1 else 0 := by
  cases k with
  | false => rfl
  | true => rfl

/-- Settles O7: the length decides whether FC.ENCODE answers or refuses; what it answers has the layout of `encode`. -/
theorem encodeWritesFrameLayout : Obligations.EncodeWritesFrameLayout := by
  unfold Obligations.EncodeWritesFrameLayout
  refine ⟨?encoding, ?layout, fun cmd seq _ brk s hp => exec_fcEncode_of_lt hp cmd seq brk s, ?vector⟩
  case encoding =>
    intro c q p k
    rw [encode, toBit_eq_ite]
  case layout =>
    intro cmd seq p brk s hp
    rw [exec_fcEncode_of_le hp, encodeFrame_layout]
    rfl
  case vector =>
    intro s
    exact ⟨_, exec_fcEncode_of_le (by decide) _ _ _ s, congrArg Result.bytes encodeFrame_vectorX1⟩

/-- Settles O8: the second example is the first with one byte changed, which the checksum detects. -/
theorem decodeAnswersWithoutEvent : Obligations.DecodeAnswersWithoutEvent := by
  unfold Obligations.DecodeAnswersWithoutEvent
  exact ⟨fun _ => rfl, exec_fcDecode, decodeFrame_vectorX2,
    singleByteCorruptionDetected _ _ decodeFrame_vectorX2 10 0x2A (by decide) (by decide)⟩

end Sys2Proof.Machine
end

section
/-! SUPPORT. The assembler as a scanner of a byte stream (spec/42_frame_assembler.md R150 to R159). A pass that goes on does
the same whatever bytes come later, so chunk boundaries do not show; and a whole valid frame at the head is accepted, so
no part of it that ends before its last byte can be more than waited on. -/

namespace Sys2Proof.Machine

/-! ### The operations -/

theorem exec_faAppend (chunk : Bytes) (s : State) :
    exec (.faAppend chunk) s =
      .next { s with
        buf := (extract 0x0000 (s.buf ++ chunk)).buf
        result := .frames (extract 0x0000 (s.buf ++ chunk)).frames
        events := (extract 0x0000 (s.buf ++ chunk)).fails.map Event.logCrcFail } := rfl

theorem exec_faReset (s : State) : exec .faReset s = .next { s with buf := [], result := .none, events := [] } := rfl

/-! ### The canonical form of the buffer -/

/-- The two forms (a) and (b) of R36. -/
theorem Memory.wf_iff {buf : Bytes} : Memory.wf buf = true ↔
    buf.length < 7 ∨ (7 ≤ buf.length ∧ ∃ c q lo hi rest, buf = 0x01 :: c :: q :: lo :: hi :: rest ∧
      buf.length < 5 + (lo.toNat + 256 * hi.toNat) + 2) := by
  by_cases hshort : buf.length < Config.minFrame
  · exact iff_of_true (extractPass_eq_wait_iff.mp (extractPass_short (init := 0) hshort)) (.inl hshort)
  · obtain ⟨x, c, q, lo, hi, rest, rfl⟩ := exists_header hshort
    have hlong : 7 ≤ (x :: c :: q :: lo :: hi :: rest).length := Nat.le_of_not_lt hshort
    simp only [Memory.wf, hshort, decide_false, Bool.false_or, Bool.and_eq_true, beq_iff_eq, decide_eq_true_eq]
    constructor
    · rintro ⟨rfl, hpart⟩
      exact .inr ⟨hlong, c, q, lo, hi, rest, rfl, hpart⟩
    · rintro (h | ⟨-, c', q', lo', hi', rest', heq, hpart⟩)
      · exact absurd h hshort
      · cases heq
        exact ⟨rfl, hpart⟩

/-! ### The steps of the boundary detector -/

section Passes

variable {init : Word16} {buf rest cand : Bytes} {f : Frame}

theorem extract_of_skip (h : extractPass init buf = .skip rest) : extract init buf = extract init rest := by
  rw [extract_eq, h]

theorem extract_of_accept (h : extractPass init buf = .accept f rest) :
    extract init buf = ⟨f :: (extract init rest).frames, (extract init rest).fails, (extract init rest).buf⟩ := by
  rw [extract_eq, h]

theorem extract_of_reject (h : extractPass init buf = .reject cand rest) :
    extract init buf = ⟨(extract init rest).frames, cand :: (extract init rest).fails, (extract init rest).buf⟩ := by
  rw [extract_eq, h]

/-- Induction along the passes of `extract`, by what each pass does (R152). -/
theorem extract_passInduction {motive : Bytes → Prop}
    (wait : ∀ buf, Memory.wf buf = true → motive buf)
    (skip : ∀ x rest, extractPass init (x :: rest) = .skip rest → motive rest → motive (x :: rest))
    (accept : ∀ f rest,
      extractPass init (encodeFrame init f.command f.sequence f.payload false ++ rest) = .accept f rest →
        motive rest → motive (encodeFrame init f.command f.sequence f.payload false ++ rest))
    (reject : ∀ x cand rest, extractPass init (x :: rest) = .reject cand rest → motive rest → motive (x :: rest))
    (buf : Bytes) : motive buf := by
  refine extract_induction (init := init) (fun buf hwait => wait buf (extractPass_eq_wait_iff.mp hwait)) ?_ buf
  intro buf rest hnext ih
  obtain ⟨hpass, -⟩ | ⟨x, r, rfl, -, hpass⟩ | ⟨f, r, rfl, -, hpass⟩ | ⟨n, r, rfl, -, -, hpass⟩ :=
    extractPass_cases init buf <;> rw [hpass] at hnext <;> cases hnext
  · exact skip x rest hpass ih
  · exact accept f rest hpass ih
  · exact reject _ _ rest hpass ih

end Passes

theorem extract_of_length_lt {init : Word16} {buf : Bytes} (h : buf.length < Config.minFrame) :
    extract init buf = ⟨[], [], buf⟩ :=
  extract_of_wf (Memory.wf_iff.mpr (.inl h))

theorem extract_nil (init : Word16) : extract init [] = ⟨[], [], []⟩ := extract_of_wf Memory.wf_nil

/-- Step 3 of R152. -/
theorem extract_cons_of_ne_soh {init : Word16} {x : Byte} {rest : Bytes} (hlong : ¬ (x :: rest).length < Config.minFrame)
    (hx : x ≠ Config.soh) : extract init (x :: rest) = extract init rest := by
  obtain ⟨y, c, q, lo, hi, rest', heq⟩ := exists_header hlong
  obtain ⟨rfl, -⟩ := List.cons.inj heq
  exact extract_of_skip (by rw [extractPass_header heq hlong, if_pos hx, List.drop_one, List.tail_cons])

section Candidate

variable {init : Word16} {c q lo hi : Byte} {rest : Bytes}

/-- The candidate of step 5: the header and as many bytes as it declares (R152). -/
def candidate (c q lo hi : Byte) (rest : Bytes) : Bytes :=
  Config.soh :: c :: q :: lo :: hi :: rest.take (le16 lo hi + 2)

theorem declared_length_eq : Config.hdrLen + le16 lo hi + Config.crcLen = le16 lo hi + 2 + 5 := by
  simp only [Config.hdrLen, Config.crcLen]
  omega

theorem take_header : (Config.soh :: c :: q :: lo :: hi :: rest).take (Config.hdrLen + le16 lo hi + Config.crcLen) =
    candidate c q lo hi rest := by
  rw [declared_length_eq]
  rfl

theorem drop_header : (Config.soh :: c :: q :: lo :: hi :: rest).drop (Config.hdrLen + le16 lo hi + Config.crcLen) =
    rest.drop (le16 lo hi + 2) := by
  rw [declared_length_eq]
  rfl

/-- Step 5 of R152 on a buffer that holds its candidate whole: `decode` decides. -/
theorem extractPass_candidate (hwhole : le16 lo hi + 2 ≤ rest.length) :
    extractPass init (Config.soh :: c :: q :: lo :: hi :: rest) =
      (decodeFrame init (candidate c q lo hi rest)).elim
        (.reject (candidate c q lo hi rest) (c :: q :: lo :: hi :: rest))
        (.accept · (rest.drop (le16 lo hi + 2))) := by
  have hlong : ¬ (Config.soh :: c :: q :: lo :: hi :: rest).length < Config.minFrame := by
    simp only [List.length_cons, Config.minFrame]; omega
  have hall : ¬ (Config.soh :: c :: q :: lo :: hi :: rest).length < Config.hdrLen + le16 lo hi + Config.crcLen := by
    simp only [List.length_cons, Config.hdrLen, Config.crcLen]; omega
  rw [extractPass_header rfl hlong, if_neg (not_not.mpr rfl), if_neg hall, take_header, drop_header]
  cases decodeFrame init (candidate c q lo hi rest) with
  | some f => rfl
  | none => rfl

theorem extract_of_decodeFrame_some {f : Frame} (hwhole : le16 lo hi + 2 ≤ rest.length)
    (hf : decodeFrame init (candidate c q lo hi rest) = some f) :
    extract init (Config.soh :: c :: q :: lo :: hi :: rest) =
      ⟨f :: (extract init (rest.drop (le16 lo hi + 2))).frames, (extract init (rest.drop (le16 lo hi + 2))).fails,
        (extract init (rest.drop (le16 lo hi + 2))).buf⟩ :=
  extract_of_accept (by rw [extractPass_candidate hwhole, hf, Option.elim_some])

theorem extract_of_decodeFrame_none (hwhole : le16 lo hi + 2 ≤ rest.length)
    (hnone : decodeFrame init (candidate c q lo hi rest) = none) :
    extract init (Config.soh :: c :: q :: lo :: hi :: rest) =
      ⟨(extract init (c :: q :: lo :: hi :: rest)).frames,
        candidate c q lo hi rest :: (extract init (c :: q :: lo :: hi :: rest)).fails,
        (extract init (c :: q :: lo :: hi :: rest)).buf⟩ :=
  extract_of_reject (by rw [extractPass_candidate hwhole, hnone, Option.elim_none])

/-- Step 4 of R152. -/
theorem extract_of_partial (hlong : 2 ≤ rest.length) (hpart : rest.length < le16 lo hi + 2) :
    extract init (Config.soh :: c :: q :: lo :: hi :: rest) = ⟨[], [], Config.soh :: c :: q :: lo :: hi :: rest⟩ := by
  refine extract_of_wf (Memory.wf_iff.mpr (.inr ⟨?_, c, q, lo, hi, rest, rfl, ?_⟩))
  · simp only [List.length_cons]; omega
  · simp only [List.length_cons, le16] at hpart ⊢; omega

end Candidate

/-- Settles O14: the first step by the canonical form, and one equation for each step after it. -/
theorem extractFollowsBoundaryDetector : Obligations.ExtractFollowsBoundaryDetector := by
  unfold Obligations.ExtractFollowsBoundaryDetector
  refine ⟨fun _ => extract_of_length_lt, fun _ _ hlong => extract_cons_of_ne_soh (Nat.not_lt.mpr hlong),
    fun _ _ _ _ _ => extract_of_partial, ?candidate⟩
  case candidate =>
    intro c q lo hi rest hwhole
    split
    next f hf => exact extract_of_decodeFrame_some hwhole hf
    next hnone => exact extract_of_decodeFrame_none hwhole hnone

/-- Settles O15: the three operations leave the canonical form, which bounds the length. -/
theorem assemblerSettlesBuffer : Obligations.AssemblerSettlesBuffer := by
  unfold Obligations.AssemblerSettlesBuffer
  intro i s t hi hexec
  have hwf : Memory.wf t.buf = true := by
    obtain ⟨chunk, rfl⟩ | ⟨chunk, now, rfl⟩ | rfl := hi
    · cases hexec; exact Memory.wf_append ..
    · cases hexec; exact Memory.wf_wpeNotify ..
    · cases hexec; exact Memory.wf_nil
  exact ⟨Memory.wf_iff.mp hwf, Nat.le_of_lt_succ (Memory.wf_length hwf)⟩

/-! ### Chunk boundaries -/

/-- A pass as it is with the bytes `b` behind those it looked at. -/
def Pass.followedBy (b : Bytes) : Pass → Pass
  | .wait => .wait
  | .skip rest => .skip (rest ++ b)
  | .accept f rest => .accept f (rest ++ b)
  | .reject cand rest => .reject cand (rest ++ b)

/-- A pass that goes on depends on none of the bytes still to come. -/
theorem extractPass_append {init : Word16} {a : Bytes} {p : Pass} (hpass : extractPass init a = p) (hgoes : p ≠ .wait)
    (b : Bytes) : extractPass init (a ++ b) = p.followedBy b := by
  subst hpass
  have hlong : ¬ a.length < Config.minFrame := fun h => hgoes (extractPass_short h)
  obtain ⟨x, c, q, lo, hi, rest, ha⟩ := exists_header hlong
  have hab : a ++ b = x :: c :: q :: lo :: hi :: (rest ++ b) := by rw [ha]; rfl
  have hlonger : ¬ (a ++ b).length < Config.minFrame := by rw [List.length_append]; omega
  have hone : 1 ≤ a.length := by rw [ha]; simp
  rw [extractPass_header ha hlong] at hgoes ⊢
  rw [extractPass_header hab hlonger, List.drop_append_of_le_length hone]
  by_cases hx : x = Config.soh
  · rw [if_neg (not_not.mpr hx)] at hgoes ⊢
    by_cases hpart : a.length < Config.hdrLen + le16 lo hi + Config.crcLen
    · exact absurd (if_pos hpart) hgoes
    · have hwhole : Config.hdrLen + le16 lo hi + Config.crcLen ≤ a.length := Nat.le_of_not_lt hpart
      have hwhole' : ¬ (a ++ b).length < Config.hdrLen + le16 lo hi + Config.crcLen := by
        rw [List.length_append]; omega
      rw [if_neg (not_not.mpr hx), if_neg hpart, if_neg hwhole', List.take_append_of_le_length hwhole,
        List.drop_append_of_le_length hwhole]
      cases decodeFrame init (a.take (Config.hdrLen + le16 lo hi + Config.crcLen)) with
      | some f => rfl
      | none => rfl
  · rw [if_pos hx, if_pos hx]
    rfl

/-- What two extractions yield, one after the other: all frames and failures in order, and the buffer left at the end. -/
def Extraction.andThen (e r : Extraction) : Extraction := ⟨e.frames ++ r.frames, e.fails ++ r.fails, r.buf⟩

/-- Extraction may stop between any two bytes of the stream and go on with what is left (R156). -/
theorem extract_append (init : Word16) (a b : Bytes) :
    extract init (a ++ b) = (extract init a).andThen (extract init ((extract init a).buf ++ b)) := by
  induction a using extract_passInduction (init := init) with
  | wait a hwf =>
    rw [extract_of_wf hwf]
    rfl
  | skip x rest hpass ih =>
    rw [extract_of_skip (extractPass_append hpass nofun b), extract_of_skip hpass, ih]
  | accept f rest hpass ih =>
    rw [extract_of_accept (extractPass_append hpass nofun b), extract_of_accept hpass, ih]
    rfl
  | reject x cand rest hpass ih =>
    rw [extract_of_reject (extractPass_append hpass nofun b), extract_of_reject hpass, ih]
    rfl

/-- Settles O16: the stream may be cut where the first chunk ends. -/
theorem chunkBoundariesDoNotMatter : Obligations.ChunkBoundariesDoNotMatter := by
  unfold Obligations.ChunkBoundariesDoNotMatter
  intro a b s
  have hcut := extract_append 0x0000 (s.buf ++ a) b
  rw [List.append_assoc] at hcut
  refine ⟨_, _, _, exec_faAppend a s, exec_faAppend b _, exec_faAppend (a ++ b) s, ?_, ?_, ?_⟩
  · rw [hcut]; rfl
  · rw [hcut]; rfl
  · rw [hcut]; exact List.map_append.symm

/-- Byte after byte, the stream is cut after each one (R151). -/
theorem appendByteSerial_eq_extract {init : Word16} {buf : Bytes} (hbuf : Memory.wf buf = true) (chunk : Bytes) :
    appendByteSerial init buf chunk = extract init (buf ++ chunk) := by
  induction chunk generalizing buf with
  | nil => rw [List.append_nil, extract_of_wf hbuf, appendByteSerial]
  | cons b chunk ih =>
    rw [List.append_cons, extract_append, ← ih (extract_wf ..)]
    rfl

/-- Settles O17: byte after byte the stream is the same, and R36 leaves room for one byte more. -/
theorem byteSerialIngestEqualsWholeChunk : Obligations.ByteSerialIngestEqualsWholeChunk := by
  unfold Obligations.ByteSerialIngestEqualsWholeChunk
  intro buf chunk hbuf
  exact ⟨appendByteSerial_eq_extract hbuf chunk, Memory.wf_length hbuf⟩

/-! ### Whole frames in the stream -/

/-- A valid frame at the head of the buffer is accepted, and what follows it is left (R152 step 5). -/
theorem extractPass_encodeFrame_append {init : Word16} {f : Frame} (hf : frameValid init f = true) (rest : Bytes) :
    extractPass init (encodeFrame init f.command f.sequence f.payload false ++ rest) = .accept f rest := by
  have hdecode := decodeFrame_eq_some_iff.mpr ⟨hf, rfl⟩
  have hmax : f.payload.length ≤ Config.maxPayload := by
    obtain ⟨hlength, hle, -⟩ := of_decide_eq_true hf
    exact hlength ▸ hle
  have hlayout : encodeFrame init f.command f.sequence f.payload false ++ rest =
      Config.soh :: f.command :: f.sequence :: lenLo f.payload.length :: lenHi f.payload.length ::
        (encodeFrame init f.command f.sequence f.payload false ++ rest).drop Config.hdrLen := rfl
  have htotal : Config.hdrLen + le16 (lenLo f.payload.length) (lenHi f.payload.length) + Config.crcLen =
      (encodeFrame init f.command f.sequence f.payload false).length := by
    rw [le16_lenLo_lenHi hmax, encodeFrame_length]
    simp only [Config.hdrLen, Config.crcLen, Bool.toNat_false]
    omega
  have hlong : ¬ (encodeFrame init f.command f.sequence f.payload false ++ rest).length < Config.minFrame := by
    rw [List.length_append, encodeFrame_length]
    simp only [Config.minFrame]
    omega
  have hwhole : ¬ (encodeFrame init f.command f.sequence f.payload false ++ rest).length <
      (encodeFrame init f.command f.sequence f.payload false).length := by
    rw [List.length_append]
    omega
  rw [extractPass_header hlayout hlong, if_neg (not_not.mpr rfl), htotal, if_neg hwhole, List.take_left, List.drop_left,
    hdecode]

theorem extract_wire_append {f : Frame} (hf : frameValid 0x0000 f = true) (rest : Bytes) :
    extract 0x0000 (Frame.wire f ++ rest) =
      ⟨f :: (extract 0x0000 rest).frames, (extract 0x0000 rest).fails, (extract 0x0000 rest).buf⟩ :=
  extract_of_accept (extractPass_encodeFrame_append hf rest)

theorem extract_wire {f : Frame} (hf : frameValid 0x0000 f = true) :
    extract 0x0000 (Frame.wire f) = ⟨[f], [], []⟩ := by
  have h := extract_wire_append hf []
  rwa [List.append_nil, extract_nil] at h

/-- A valid frame that lacks its last bytes is waited on: a pass that went on would be the one that accepts the whole frame,
and that one leaves none of its bytes. -/
theorem Memory.wf_of_append_eq_wire {f : Frame} {a b : Bytes} (hf : frameValid 0x0000 f = true)
    (hcut : Frame.wire f = a ++ b) (hb : b ≠ []) : Memory.wf a = true := by
  have haccept : extractPass 0x0000 (Frame.wire f ++ []) = .accept f [] := extractPass_encodeFrame_append hf []
  rw [List.append_nil, hcut] at haccept
  cases hpass : extractPass 0x0000 a with
  | wait => exact extractPass_eq_wait_iff.mp hpass
  | skip r => cases haccept.symm.trans (extractPass_append hpass nofun b)
  | accept g r =>
    obtain ⟨-, hnil⟩ := Pass.accept.inj (haccept.symm.trans (extractPass_append hpass nofun b))
    exact absurd (List.append_eq_nil_iff.mp hnil.symm).2 hb
  | reject cand r => cases haccept.symm.trans (extractPass_append hpass nofun b)

/-- Settles O18: the first part is waited on, and the second completes the frame. -/
theorem fragmentedFrameComesOutOnce : Obligations.FragmentedFrameComesOutOnce := by
  unfold Obligations.FragmentedFrameComesOutOnce
  intro f a b s hf hempty hcut hb
  have hfirst : extract 0x0000 (s.buf ++ a) = ⟨[], [], a⟩ := by
    rw [hempty, List.nil_append, extract_of_wf (Memory.wf_of_append_eq_wire hf hcut hb)]
  have hsecond : extract 0x0000 (a ++ b) = ⟨[f], [], []⟩ := by rw [← hcut, extract_wire hf]
  refine ⟨{ s with buf := a, result := .frames [], events := [] }, _, ?_, rfl, rfl, rfl, exec_faAppend b _, ?_⟩
  · rw [exec_faAppend, hfirst]
    rfl
  · rw [hsecond]
    exact ⟨rfl, rfl, rfl⟩

/-- Settles O19: the noise byte stands at the head of a long enough buffer once the first frame has left. -/
theorem noiseByteBetweenFramesIsDropped : Obligations.NoiseByteBetweenFramesIsDropped := by
  unfold Obligations.NoiseByteBetweenFramesIsDropped
  intro f g n s hf hg hempty hn
  have hlong : ¬ (n :: Frame.wire g).length < Config.minFrame := by
    simp only [Frame.wire, List.length_cons, encodeFrame_length, Config.minFrame]
    omega
  have hstream : extract 0x0000 (s.buf ++ (Frame.wire f ++ [n] ++ Frame.wire g)) = ⟨[f, g], [], []⟩ := by
    rw [hempty, List.nil_append, List.append_assoc, extract_wire_append hf, List.singleton_append,
      extract_cons_of_ne_soh hlong hn, extract_wire hg]
  refine ⟨_, exec_faAppend _ s, ?_⟩
  rw [hstream]
  exact ⟨rfl, rfl, rfl⟩

/-! ### The stream cut into frames -/

/-- The stream is the frames in order, each whole and after a gap, then a last gap, then what is kept (R159). -/
def CutsInto (stream : Bytes) (frames : List Frame) (kept : Bytes) : Prop :=
  ∃ gaps last, gaps.length = frames.length ∧ stream = weave gaps frames ++ last ++ kept

theorem CutsInto.kept (buf : Bytes) : CutsInto buf [] buf := ⟨[], [], rfl, rfl⟩

/-- A dropped byte belongs to the gap before the next frame, or to the last one. -/
theorem CutsInto.drop {stream kept : Bytes} {frames : List Frame} (h : CutsInto stream frames kept) (x : Byte) :
    CutsInto (x :: stream) frames kept := by
  obtain ⟨gaps, last, hlength, rfl⟩ := h
  cases gaps with
  | nil =>
    obtain rfl : frames = [] := List.length_eq_zero_iff.mp hlength.symm
    exact ⟨[], x :: last, rfl, rfl⟩
  | cons g gaps =>
    cases frames with
    | nil => cases hlength
    | cons f frames => exact ⟨(x :: g) :: gaps, last, hlength, rfl⟩

theorem CutsInto.frame {stream kept : Bytes} {frames : List Frame} (h : CutsInto stream frames kept) (f : Frame) :
    CutsInto (Frame.wire f ++ stream) (f :: frames) kept := by
  obtain ⟨gaps, last, hlength, rfl⟩ := h
  exact ⟨[] :: gaps, last, congrArg (· + 1) hlength, by simp [weave]⟩

theorem extract_cutsInto (buf : Bytes) : CutsInto buf (extract 0x0000 buf).frames (extract 0x0000 buf).buf := by
  induction buf using extract_passInduction (init := 0x0000) with
  | wait buf hwf =>
    rw [extract_of_wf hwf]
    exact .kept buf
  | skip x rest hpass ih =>
    rw [extract_of_skip hpass]
    exact ih.drop x
  | accept f rest hpass ih =>
    rw [extract_of_accept hpass]
    exact ih.frame f
  | reject x cand rest hpass ih =>
    rw [extract_of_reject hpass]
    exact ih.drop x

/-- Settles O20: each pass accounts for the bytes it removes, as one of a gap or as a whole frame. -/
theorem appendCutsStreamIntoFrames : Obligations.AppendCutsStreamIntoFrames := by
  unfold Obligations.AppendCutsStreamIntoFrames
  intro chunk s t hexec
  cases hexec
  exact extract_cutsInto _

/-! ### The document's examples -/

/-- Settles O13: the example is the vector X2, cut after its sixth byte. -/
theorem appendAnswersExtraction : Obligations.AppendAnswersExtraction := by
  unfold Obligations.AppendAnswersExtraction
  refine ⟨fun _ => rfl, exec_faAppend, ?vector⟩
  case vector =>
    intro s hempty
    obtain ⟨hvalid, hwire⟩ := decodeFrame_eq_some_iff.mp decodeFrame_vectorX2
    obtain ⟨t, u, hfirst, hnone, -, hkept, hsecond, hframe, -, hbuf⟩ :=
      fragmentedFrameComesOutOnce _ [0x01, 0x33, 0x00, 0x04, 0x00, 0x00] [0x00, 0x00, 0x00, 0x63, 0x2B] s hvalid hempty
        hwire.symm (by decide)
    exact ⟨t, u, hfirst, hnone, hkept, hsecond, hframe, hbuf⟩

/-- Settles O21: in the example the rest of the frame is noise, of which one byte is dropped and six are too few. -/
theorem assemblerResetEmptiesBuffer : Obligations.AssemblerResetEmptiesBuffer := by
  unfold Obligations.AssemblerResetEmptiesBuffer
  refine ⟨rfl, exec_faReset, ?vector⟩
  case vector =>
    intro s _
    have hnoise : extract 0x0000 [0x00, 0x00, 0x00, 0x00, 0x00, 0x63, 0x2B] =
        ⟨[], [], [0x00, 0x00, 0x00, 0x00, 0x63, 0x2B]⟩ := by
      rw [extract_cons_of_ne_soh (by decide) (by decide), extract_of_length_lt (by decide)]
    refine ⟨_, _, exec_faReset s, rfl, exec_faAppend _ _, ?_⟩
    rw [List.nil_append, hnoise]
    exact ⟨rfl, rfl⟩

end Sys2Proof.Machine
end

section
/-! SUPPORT. The composite WPE.NOTIFY (spec/42_frame_assembler.md R160). No handler of a frame looks at what the operation in
progress has answered or emitted, so a frame is received within a notification as it is by a CS.RECV of its own. -/

namespace Sys2Proof.Machine

variable {P : Params} (r : Result) (evs : List Event) (s : State)

/-- The state as it is within an operation that answered `r` and emitted `evs` beforehand. -/
def withPrior : State := { s with result := r, events := evs ++ s.events }

/-- What `begin` clears is all that is prior. -/
theorem eq_withPrior_begin : s = withPrior s.result s.events (begin s) := by
  simp only [withPrior, begin_events, List.append_nil]
  rfl

theorem answer_eq_withPrior : answer r s = withPrior r [] s := rfl

@[simp] theorem withPrior_expect : (withPrior r evs s).expect = s.expect := rfl
@[simp] theorem withPrior_seq : (withPrior r evs s).seq = s.seq := rfl
@[simp] theorem withPrior_brkEn : (withPrior r evs s).brkEn = s.brkEn := rfl
@[simp] theorem withPrior_writeAvail : (withPrior r evs s).writeAvail = s.writeAvail := rfl
@[simp] theorem withPrior_defer : (withPrior r evs s).defer = s.defer := rfl
@[simp] theorem withPrior_lookup : (withPrior r evs s).lookup = s.lookup := rfl
@[simp] theorem withPrior_fsm : (withPrior r evs s).fsm = s.fsm := rfl
@[simp] theorem withPrior_autoSpent : (withPrior r evs s).autoSpent = s.autoSpent := rfl
@[simp] theorem withPrior_deviceId : (withPrior r evs s).deviceId = s.deviceId := rfl

@[simp] theorem setFsm_withPrior (f : Fsm) : setFsm f (withPrior r evs s) = withPrior r evs (setFsm f s) := rfl

@[simp] theorem setUnlocked_withPrior (b : Bool) :
    setUnlocked b (withPrior r evs s) = withPrior r evs (setUnlocked b s) := rfl

@[simp] theorem pushExpect_withPrior (e : Expectation) :
    pushExpect e (withPrior r evs s) = withPrior r evs (pushExpect e s) := rfl

@[simp] theorem bumpSeq_withPrior : bumpSeq (withPrior r evs s) = withPrior r evs (bumpSeq s) := rfl

@[simp] theorem pushDefer_withPrior (b : Bytes) : pushDefer b (withPrior r evs s) = withPrior r evs (pushDefer b s) := rfl

/-! ### Events and sending -/

@[simp] theorem emit_withPrior (e : Event) : emit e (withPrior r evs s) = withPrior r evs (emit e s) := by
  simp only [emit, withPrior, List.append_assoc]

/-- An event emitted after updates that let the prior answer and events pass. -/
theorem emit_eq_withPrior {r : Result} {evs : List Event} {t u : State} (h : u = withPrior r evs t) (e : Event) :
    emit e u = withPrior r evs (emit e t) := by
  rw [h, emit_withPrior]

@[simp] theorem raise_withPrior (k : ErrorKind) : raise k (withPrior r evs s) = withPrior r evs (raise k s) :=
  emit_withPrior r evs s _

@[simp] theorem transmit_withPrior (b : Bytes) : transmit b (withPrior r evs s) = withPrior r evs (transmit b s) := by
  simp only [transmit, emit_withPrior]

theorem doSend_withPrior (c : Command) (p : Bytes) :
    doSend P c p (withPrior r evs s) = ⟨(doSend P c p s).accepted, withPrior r evs (doSend P c p s).state⟩ := by
  rcases doSend_cases P c p s with ⟨hlong, h⟩ | ⟨hfits, hw, hfull, h⟩ | ⟨hfits, hw, h⟩ | ⟨hfits, hw, hroom, h⟩ <;> rw [h]
  · simp only [doSend, if_pos hlong, raise_withPrior]
  · simp only [doSend, if_neg (Nat.not_lt.mpr hfits), withPrior_writeAvail, withPrior_defer, if_pos (And.intro hw hfull),
      raise_withPrior]
  · simp [doSend, sendBytes, sendTaken, Nat.not_lt.mpr hfits, hw]
  · simp [doSend, sendBytes, sendTaken, Nat.not_lt.mpr hfits, hw, hroom]

/-! ### Receiving -/

theorem correlate_withPrior (f : Frame) :
    correlate f (withPrior r evs s) = ((correlate f s).1, withPrior r evs (correlate f s).2) := by
  simp only [correlate, withPrior_expect]
  split <;> rfl

theorem askPasscode_withPrior (id : DeviceId) :
    askPasscode id (withPrior r evs s) = ((askPasscode id s).1, withPrior r evs (askPasscode id s).2) := by
  simp only [askPasscode, withPrior_lookup]
  split <;> rfl

theorem autoUnlock_withPrior (id : DeviceId) :
    autoUnlock P id (withPrior r evs s) = withPrior r evs (autoUnlock P id s) := by
  simp only [autoUnlock, askPasscode_withPrior]
  obtain ⟨answer, s1⟩ := askPasscode id s
  cases answer with
  | none => rfl
  | some text =>
    dsimp only
    cases passenc P text with
    | none => exact raise_withPrior ..
    | some p =>
      simp only [doSend_withPrior]
      split <;> rfl

theorem onSecurityRefusal_withPrior : onSecurityRefusal P (withPrior r evs s) = withPrior r evs (onSecurityRefusal P s) := by
  cases hspent : s.autoSpent with
  | true => simp [onSecurityRefusal, hspent]
  | false =>
    cases hid : s.deviceId with
    | none => simp [onSecurityRefusal, hspent, hid]
    | some id => simp [onSecurityRefusal, hspent, hid, autoUnlock_withPrior]

theorem onCurrentValue_withPrior (st : Status) (f : Frame) (now : Time) :
    onCurrentValue P st f now (withPrior r evs s) = withPrior r evs (onCurrentValue P st f now s) := by
  cases st with
  | ack =>
    simp only [onCurrentValue, onCurrentAck, emit_withPrior]
    split
    · exact emit_eq_withPrior (by rfl) _
    · rfl
  | refuse x =>
    simp only [onCurrentValue, onSecurityRefusal_withPrior, raise_withPrior]
    split <;> rfl
  | busy => exact emit_eq_withPrior (by rfl) _
  | unknown x => exact emit_eq_withPrior (by rfl) _
  | missing => exact emit_eq_withPrior (by rfl) _

theorem onRecordingSettings_withPrior (st : Status) (f : Frame) :
    onRecordingSettings P st f (withPrior r evs s) = withPrior r evs (onRecordingSettings P st f s) := by
  cases st with
  | ack =>
    simp only [onRecordingSettings, onSettingsAck]
    split
    · exact emit_eq_withPrior (by rfl) _
    · exact emit_eq_withPrior (by rfl) _
  | refuse x => exact emit_eq_withPrior (by rfl) _
  | busy => exact emit_eq_withPrior (by rfl) _
  | unknown x => exact emit_eq_withPrior (by rfl) _
  | missing => exact emit_eq_withPrior (by rfl) _

theorem onPasscode_withPrior (st : Status) :
    onPasscode st (withPrior r evs s) = withPrior r evs (onPasscode st s) := by
  cases st with
  | ack => exact emit_eq_withPrior (emit_eq_withPrior (by rfl) _) _
  | refuse x => exact emit_eq_withPrior (by rfl) _
  | busy => exact emit_eq_withPrior (by rfl) _
  | unknown x => exact emit_eq_withPrior (by rfl) _
  | missing => exact emit_eq_withPrior (by rfl) _

theorem onWrite_withPrior (c : Command) (st : Status) :
    onWrite P c st (withPrior r evs s) = withPrior r evs (onWrite P c st s) := by
  cases st with
  | ack => exact congrArg Sent.state (doSend_withPrior ..)
  | refuse x => exact emit_eq_withPrior (by rfl) _
  | busy => exact emit_eq_withPrior (by rfl) _
  | unknown x => exact emit_eq_withPrior (by rfl) _
  | missing => exact emit_eq_withPrior (by rfl) _

theorem handle_withPrior (c : Command) (st : Status) (f : Frame) (now : Time) :
    handle P c st f now (withPrior r evs s) = withPrior r evs (handle P c st f now s) := by
  cases c with
  | currentValue => exact onCurrentValue_withPrior ..
  | recordingSettings => exact onRecordingSettings_withPrior ..
  | passcode => exact onPasscode_withPrior ..
  | settingsWrite => exact onWrite_withPrior ..
  | start => exact onWrite_withPrior ..
  | stop => exact onWrite_withPrior ..

theorem receive_withPrior (f : Frame) (now : Time) :
    receive P f now (withPrior r evs s) = withPrior r evs (receive P f now s) := by
  simp only [receive, correlate_withPrior, emit_withPrior]
  split
  · rfl
  · exact handle_withPrior ..

theorem receiveAll_withPrior (now : Time) (fs : List Frame) :
    receiveAll P now fs (withPrior r evs s) = withPrior r evs (receiveAll P now fs s) := by
  induction fs generalizing s with
  | nil => rfl
  | cons f fs ih =>
    simp only [receiveAll, List.foldl_cons, emit_withPrior, receive_withPrior]
    exact ih _

/-! ### The composite -/

/-- The first frame of a notification is an arrival and a CS.RECV, whose events the rest stands behind (R160). -/
theorem receiveAll_cons (f : Frame) (now : Time) (fs : List Frame) :
    receiveAll P now (f :: fs) s =
      withPrior s.result (s.events ++ [.arrival now]) (receiveAll P now fs (receive P f now (begin s))) := by
  have harrived : emit (.arrival now) s = withPrior s.result (s.events ++ [.arrival now]) (begin s) :=
    eq_withPrior_begin _
  rw [receiveAll, List.foldl_cons, harrived, receive_withPrior]
  exact receiveAll_withPrior ..

/-- Receiving the frames of one notification is performing CS.RECV on each, with all their events in a row (R160). -/
theorem receiveAll_eq_receiveEach (now : Time) (fs : List Frame) :
    receiveAll Config.wpe now fs s =
      { (receiveEach now fs s).1 with result := s.result, events := s.events ++ (receiveEach now fs s).2 } := by
  induction fs generalizing s with
  | nil =>
    simp only [receiveEach, List.append_nil]
    rfl
  | cons f fs ih =>
    rw [receiveAll_cons, ih]
    simp only [withPrior, List.append_assoc]
    rfl

theorem wpeNotifyWith_eq_receiveAll (chunk : Bytes) (now : Time) :
    wpeNotifyWith P chunk now s = receiveAll P now (assemble P chunk (begin s)).1 (faAppendWith P chunk s) := by
  rw [wpeNotifyWith, faAppendWith, answer_eq_withPrior, answer_eq_withPrior, receiveAll_withPrior]

/-- Settles O22: WPE.NOTIFY receives, from the state FA.APPEND leaves, the frames FA.APPEND answers. -/
theorem notifyIsAppendThenReceive : Obligations.NotifyIsAppendThenReceive := by
  unfold Obligations.NotifyIsAppendThenReceive
  refine ⟨fun _ _ => rfl, fun chunk now s => ⟨faAppendWith Config.wpe chunk s, rfl, ?_⟩⟩
  have hnotify := (wpeNotifyWith_eq_receiveAll s chunk now).trans (receiveAll_eq_receiveEach _ now _)
  exact congrArg Host.Outcome.next hnotify

end Sys2Proof.Machine
end

section
/-! SUPPORT. Sending (spec/43_session.md R171, R173): each answer of `do_send` as an equation under its own condition, and the
statements about CS.SEND and CS.UNLOCK read off from these. -/

namespace Sys2Proof.Machine

variable {P : Params} {c : Command} {p : Bytes} {s : State}

/-! ### The four answers of `do_send` -/

/-- The length is tested first, whatever the queue holds (R132, R171). -/
theorem doSend_of_too_long (hlong : Config.maxPayload < p.length) :
    doSend P c p s = ⟨false, raise (.payloadTooLong p.length) s⟩ := by
  simp only [doSend, if_pos hlong]

/-- Without a channel and with a full queue the send is refused (R173). -/
theorem doSend_of_full (hfits : p.length ≤ Config.maxPayload) (hchannel : s.writeAvail = false)
    (hfull : s.defer.length = Config.deferDepth) : doSend P c p s = ⟨false, raise (.deferOverflow c) s⟩ := by
  simp only [doSend, if_neg (Nat.not_lt.mpr hfits), if_pos (And.intro hchannel hfull)]

/-- With a channel the frame goes out at once (R171). -/
theorem doSend_of_channel (hfits : p.length ≤ Config.maxPayload) (hchannel : s.writeAvail = true) :
    doSend P c p s = ⟨true, transmit (sendBytes P c p s) (sendTaken P c s)⟩ := by
  simp [doSend, Nat.not_lt.mpr hfits, hchannel, sendBytes, sendTaken]

/-- Without a channel and with room in the queue the frame is deferred (R173). -/
theorem doSend_of_room (hfits : p.length ≤ Config.maxPayload) (hchannel : s.writeAvail = false)
    (hroom : s.defer.length ≠ Config.deferDepth) :
    doSend P c p s = ⟨true, pushDefer (sendBytes P c p s) (sendTaken P c s)⟩ := by
  simp [doSend, Nat.not_lt.mpr hfits, hchannel, hroom, sendBytes, sendTaken]

/-- The four bytes of a passcode always fit in a frame (R93). -/
theorem passenc_fits {text : Text} (h : passenc P text = some p) : p.length ≤ Config.maxPayload := by
  unfold passenc at h
  split at h
  · obtain rfl := Option.some.inj h
    show 4 ≤ Config.maxPayload
    decide
  · cases h

/-! ### CS.SEND -/

@[simp] theorem commandOfCode_operandCode (c : Command) : commandOfCode (operandCode c) = some c := by
  cases c <;> rfl

theorem exec_csSend_operandCode (c : Command) (p : Bytes) (s : State) :
    exec (.csSend (operandCode c) p) s = .next (doSend Config.wpe c p (begin s)).state := by
  simp only [exec, execCsSend, csSendWith, commandOfCode_operandCode]

/-- Settles O23: an operation begins without events, so TX and LOG_TX are all it emits. -/
theorem sendWritesFrame : Obligations.SendWritesFrame := by
  unfold Obligations.SendWritesFrame
  intro c payload s hfits hchannel
  rw [exec_csSend_operandCode, doSend_of_channel (s := begin s) hfits hchannel]
  rfl

/-- Settles O24: what the session state register holds plays no part in a deferral. -/
theorem sendDefersWithoutChannel : Obligations.SendDefersWithoutChannel := by
  unfold Obligations.SendDefersWithoutChannel
  intro c payload s hfits hchannel hroom
  rw [exec_csSend_operandCode, doSend_of_room (s := begin s) hfits hchannel hroom]
  rfl

/-- Settles O25: both refusals come before a sequence number is taken. -/
theorem sendRefusalsChangeNothing : Obligations.SendRefusalsChangeNothing := by
  unfold Obligations.SendRefusalsChangeNothing
  refine ⟨?too_long, ?full⟩
  case too_long =>
    intro c payload s hlong
    rw [exec_csSend_operandCode, doSend_of_too_long hlong]
    rfl
  case full =>
    intro c payload s hfits hchannel hfull
    rw [exec_csSend_operandCode, doSend_of_full (s := begin s) hfits hchannel hfull]
    rfl

/-! ### CS.UNLOCK -/

/-- A valid passcode is sent as CS.SEND Passcode sends it (R196). -/
theorem exec_csUnlock_eq_csSend {text : Text} (h : passenc Config.wpe text = some p) (s : State) :
    exec (.csUnlock text) s = exec (.csSend (operandCode .passcode) p) s := by
  rw [exec_csSend_operandCode]
  simp only [exec, execCsUnlock, csUnlockWith, h]

/-- Any other text is rejected before anything is encoded (R196). -/
theorem exec_csUnlock_of_none {text : Text} (h : passenc Config.wpe text = none) (s : State) :
    exec (.csUnlock text) s = .next { s with result := .none, events := [.error .validationPasscodeFormat] } := by
  simp only [exec, execCsUnlock, csUnlockWith, h]
  rfl

/-- Settles O26: a passcode's four bytes fit in a frame, so with a channel CS.SEND writes them out. -/
theorem unlockValidatesThenSends : Obligations.UnlockValidatesThenSends := by
  unfold Obligations.UnlockValidatesThenSends
  refine ⟨fun _ => rfl, fun text p s h => exec_csUnlock_eq_csSend h s, ?written,
    fun text s h => exec_csUnlock_of_none h s⟩
  case written =>
    intro text p s h hchannel
    rw [exec_csUnlock_eq_csSend h, sendWritesFrame .passcode p s (passenc_fits h) hchannel]

end Sys2Proof.Machine
end

section
/-! SUPPORT. The operations of the connection (spec/43_session.md R201 to R204, R208): the moves of the session state register
in the words of the rules, and the statements about CS.CONNECT, CS.CHANNEL, CS.POLLSTATE and CS.DISCONNECT. -/

namespace Sys2Proof.Machine

/-! ### The session state register -/

theorem offline_iff {f : Fsm} : f.offline = true ↔ f = .idle ∨ f = .disconnected := by
  cases f <;> decide

theorem live_iff {f : Fsm} : f.live = true ↔ f = .ready ∨ f = .polling ∨ f = .streaming := by
  cases f <;> decide

/-- A channel handed over ends AwaitingCharacteristics and moves no other state (R202). -/
theorem onChannel_true (f : Fsm) : f.onChannel true = if f = .awaitingCharacteristics then .ready else f := by
  simp [Fsm.onChannel]

theorem onPollstate_eq_ite (f : Fsm) (p : PState) :
    f.onPollstate p = if f = .ready ∨ f = .polling ∨ f = .streaming then
      (if p = .polling then .polling else .streaming) else f := by
  simp only [Fsm.onPollstate, live_iff]
  cases p <;> rfl

theorem onSecurityRefusal_eq_ite (f : Fsm) :
    f.onSecurityRefusal = if f = .ready ∨ f = .polling ∨ f = .streaming then .securityLocked else f := by
  simp only [Fsm.onSecurityRefusal, live_iff]

/-! ### The operations -/

/-- Settles O29: CS.CONNECT tests for a connection, which Idle and Disconnected alone are without. -/
theorem connectLatchesDevice : Obligations.ConnectLatchesDevice := by
  unfold Obligations.ConnectLatchesDevice
  refine ⟨fun d k => by cases k <;> rfl, ?effect⟩
  case effect =>
    intro id brk s
    simp only [exec, execCsConnect, offline_iff]
    split <;> rfl

theorem flushEvents_eq_flatten (bs : List Bytes) :
    flushEvents bs = (bs.map (fun b => [Event.tx b, Event.logTx b])).flatten := by
  induction bs with
  | nil => rfl
  | cons b rest ih => simp [flushEvents, ih]

/-- Settles O30: an operation begins without events, so those of the flushed queue are all there are. -/
theorem channelHandsOverAndFlushes : Obligations.ChannelHandsOverAndFlushes := by
  unfold Obligations.ChannelHandsOverAndFlushes
  refine ⟨fun w => by cases w <;> rfl, ?effect⟩
  case effect =>
    intro w s
    simp only [exec, execCsChannel, offline_iff]
    split
    case isTrue => rfl
    case isFalse =>
      cases w with
      | true =>
        simp only [if_true, flush_eq, flushEvents_eq_flatten, onChannel_true]
        rfl
      | false =>
        simp only [Bool.false_eq_true, if_false, onChannel_false]
        rfl

/-- Settles O31: Ready, Polling and Streaming are the live states. -/
theorem pollstateMovesLiveSession : Obligations.PollstateMovesLiveSession := by
  unfold Obligations.PollstateMovesLiveSession
  refine ⟨rfl, rfl, fun p s => ?_⟩
  rw [← onPollstate_eq_ite]
  rfl

/-- Settles O32: no element but `crc` and the host's side is read. -/
theorem disconnectClearsConnection : Obligations.DisconnectClearsConnection :=
  ⟨rfl, fun _ => rfl⟩

end Sys2Proof.Machine
end

section
/-! SUPPORT. A received frame (spec/43_session.md R175, R176): what correlation takes from the expectation store, the state a
handler starts from, and that no handler takes back the LOG_RX before it. -/

namespace Sys2Proof.Machine

variable {P : Params} {f : Frame} {now : Time} {s : State} {tag : Tag} {es : List Expectation}

/-! ### Correlation -/

/-- Older expectations with other response codes are passed over (R176). -/
theorem takeExpect_of_oldest {r : Byte} {older newer : List Expectation} {e : Expectation} (he : e.resp = r)
    (holder : ∀ x ∈ older, x.resp ≠ r) : takeExpect r (older ++ e :: newer) = some (e, older ++ newer) := by
  induction older with
  | nil => simp [takeExpect, he]
  | cons x rest ih =>
    obtain ⟨hx, hrest⟩ := List.forall_mem_cons.mp holder
    simp [takeExpect, hx, ih hrest]

theorem correlate_of_oldest {older newer : List Expectation} {e : Expectation} (hstore : s.expect = older ++ e :: newer)
    (he : e.resp = f.command) (holder : ∀ x ∈ older, x.resp ≠ f.command) :
    correlate f s = (.solicited e.cls e.seq (decide (f.sequence = e.seq)), { s with expect := older ++ newer }) := by
  simp only [correlate, hstore, takeExpect_of_oldest he holder]

theorem correlate_of_unmatched (h : ∀ x ∈ s.expect, x.resp ≠ f.command) : correlate f s = (.unsolicited, s) := by
  simp only [correlate, takeExpect_eq_none_iff.mpr h]

/-- Correlation answers a tag and writes the expectation store, no more (R176). -/
theorem correlate_eq_mk (f : Frame) (s : State) : ∃ tag es, correlate f s = (tag, { s with expect := es }) :=
  ⟨(correlate f s).1, (correlate f s).2.expect, Prod.ext rfl (correlate_state f s)⟩

/-- Correlation does not look at what the operation before has answered. -/
theorem correlate_begin (f : Frame) (s : State) :
    correlate f (begin s) = ((correlate f s).1, begin (correlate f s).2) := by
  simp only [correlate, begin_expect]
  split <;> rfl

/-! ### The state a handler starts from -/

/-- The state once CS.RECV has correlated and logged a frame. -/
def received (f : Frame) (s : State) : State := emit (.logRx f (correlate f s).1) (begin (correlate f s).2)

theorem received_eq (hcorr : correlate f s = (tag, { s with expect := es })) :
    received f s = { s with expect := es, result := .none, events := [.logRx f tag] } := by
  simp only [received, hcorr]
  rfl

/-- A response of a class is received, then handled (R175, R177). -/
theorem csRecvWith_of_classify {c : Command} (h : classify P f.command = some c) :
    csRecvWith P f now s = handle P c (statusOf P f.payload) f now (received f s) := by
  simp only [csRecvWith, receive, correlate_begin, h, received]

/-- A frame of no class is received, then logged as unknown (R190). -/
theorem csRecvWith_of_unknown (h : classify P f.command = none) :
    csRecvWith P f now s = emit (.logUnknownCmd f) (received f s) := by
  simp only [csRecvWith, receive, correlate_begin, h, received]

/-- The response codes are pairwise distinct, so one of a class is handled as that class (R9, R175). -/
theorem exec_csRecv_of_respCode {c : Command} (h : f.command = Config.wpe.respCode c) (now : Time) (s : State) :
    exec (.csRecv f now) s = .next (handle Config.wpe c (statusOf Config.wpe f.payload) f now (received f s)) := by
  have hclass : classify Config.wpe f.command = some c := h ▸ classify_respCode Config.wpe_valid c
  exact congrArg Host.Outcome.next (csRecvWith_of_classify hclass)

/-- LOG_RX stays the first event: a handler lets what was emitted before it stand (R175). -/
theorem csRecvWith_events (P : Params) (f : Frame) (now : Time) (s : State) :
    ∃ rest, (csRecvWith P f now s).events = .logRx f (correlate f s).1 :: rest := by
  cases h : classify P f.command with
  | none => exact ⟨[.logUnknownCmd f], by rw [csRecvWith_of_unknown h]; rfl⟩
  | some c =>
    have hlogged : received f s = withPrior .none [.logRx f (correlate f s).1] (begin (correlate f s).2) := rfl
    exact ⟨_, by rw [csRecvWith_of_classify h, hlogged, handle_withPrior]; rfl⟩

/-- Settles O34: correlation takes the oldest match, and no handler's event stands before LOG_RX. -/
theorem receiveCorrelatesOldestExpectation : Obligations.ReceiveCorrelatesOldestExpectation := by
  unfold Obligations.ReceiveCorrelatesOldestExpectation
  refine ⟨?matched, ?unmatched, ?logged⟩
  case matched =>
    intro f s older newer e hstore he holder
    exact correlate_of_oldest hstore he holder
  case unmatched =>
    intro f s h
    exact correlate_of_unmatched h
  case logged =>
    intro f now s
    obtain ⟨rest, hevents⟩ := csRecvWith_events Config.wpe f now s
    exact ⟨_, rest, rfl, hevents⟩

/-- Settles O35: by the invariant every expectation has the response code of a class, so none matches an unknown command. -/
theorem unknownCommandIsLoggedOnly : Obligations.UnknownCommandIsLoggedOnly := by
  unfold Obligations.UnknownCommandIsLoggedOnly
  intro f now s hs hunknown
  have hunmatched : ∀ x ∈ s.expect, x.resp ≠ f.command := fun x hx =>
    hs.expectResp x hx ▸ hunknown x.cls
  have hreceived := received_eq (s := s) (correlate_of_unmatched hunmatched)
  show Host.Outcome.next (csRecvWith Config.wpe f now s) = _
  rw [csRecvWith_of_unknown (classify_eq_none_iff.mpr hunknown), hreceived]
  rfl

end Sys2Proof.Machine
end

section
/-! SUPPORT. The handlers of a response (spec/43_session.md R180 to R189): each statement is the handler's own equation on the
state that correlation and LOG_RX leave. -/

namespace Sys2Proof.Machine

variable {P : Params} {f : Frame} {s : State}

/-! ### Current-value and recording-settings responses -/

/-- Settles O36: the reading stands before the snapshot's two fields. -/
theorem currentValueAckEmitsReading : Obligations.CurrentValueAckEmitsReading := by
  unfold Obligations.CurrentValueAckEmitsReading
  intro f rest now s hcommand hpayload
  have hack : statusOf Config.wpe f.payload = .ack := hpayload ▸ statusOf_ack rest
  obtain ⟨tag, es, hcorr⟩ := correlate_eq_mk f s
  rw [exec_csRecv_of_respCode hcommand, hack, received_eq hcorr, hcorr]
  simp only [handle, onCurrentValue, onCurrentAck]
  cases Config.wpe.decodeCurrent f.payload with
  | none => rfl
  | some r => rfl

/-- Settles O37: by the cases of the status. -/
theorem currentValueOtherStatus : Obligations.CurrentValueOtherStatus := by
  unfold Obligations.CurrentValueOtherStatus
  intro f now s hcommand hack hlocked
  obtain ⟨tag, es, hcorr⟩ := correlate_eq_mk f s
  rw [exec_csRecv_of_respCode hcommand, received_eq hcorr, hcorr]
  cases hstatus : statusOf Config.wpe f.payload with
  | ack => exact absurd hstatus hack
  | refuse r =>
    have hreason : r ≠ Config.wpe.reasonLocked := by
      rintro rfl
      exact hlocked hstatus
    simp only [handle, onCurrentValue, if_neg hreason]
    rfl
  | busy => rfl
  | unknown x => rfl
  | missing => rfl

/-- Every status but Ack becomes the last error (R185). -/
theorem onRecordingSettings_of_ne_ack {st : Status} (h : st ≠ .ack) :
    onRecordingSettings P st f s = onSettingsError st s := by
  cases st with
  | ack => exact absurd rfl h
  | refuse r => rfl
  | busy => rfl
  | unknown x => rfl
  | missing => rfl

/-- Settles O41: Ack writes the decoded fields, any other status the last error. -/
theorem settingsResponseUpdatesSnapshot : Obligations.SettingsResponseUpdatesSnapshot := by
  unfold Obligations.SettingsResponseUpdatesSnapshot
  intro f now s hcommand
  obtain ⟨tag, es, hcorr⟩ := correlate_eq_mk f s
  rw [exec_csRecv_of_respCode hcommand, received_eq hcorr, hcorr]
  by_cases hack : statusOf Config.wpe f.payload = .ack
  · simp only [hack, if_true, handle, onRecordingSettings, onSettingsAck]
    cases Config.wpe.decodeSettings f.payload with
    | none => rfl
    | some r => rfl
  · simp only [if_neg hack, handle, onRecordingSettings_of_ne_ack hack]
    rfl

/-! ### Passcode, settings-write, start and stop responses -/

/-- Settles O42: by the cases of the status. -/
theorem passcodeResponseUnlocksOrRejects : Obligations.PasscodeResponseUnlocksOrRejects := by
  unfold Obligations.PasscodeResponseUnlocksOrRejects
  intro f now s hcommand
  obtain ⟨tag, es, hcorr⟩ := correlate_eq_mk f s
  rw [exec_csRecv_of_respCode hcommand, received_eq hcorr, hcorr]
  cases statusOf Config.wpe f.payload with
  | ack => rfl
  | refuse r => rfl
  | busy => rfl
  | unknown x => rfl
  | missing => rfl

/-- The three classes have one handler (R189). -/
theorem handle_of_write {c : Command} (hc : c = .settingsWrite ∨ c = .start ∨ c = .stop) (st : Status) (f : Frame)
    (now : Time) (s : State) : handle P c st f now s = onWrite P c st s := by
  obtain rfl | rfl | rfl := hc <;> rfl

/-- Settles O43: with Ack by the cases of the send that requests the settings, else by those of the status. -/
theorem writeResponseRequestsOrSurfaces : Obligations.WriteResponseRequestsOrSurfaces := by
  unfold Obligations.WriteResponseRequestsOrSurfaces
  intro c f now s hc hcommand
  obtain ⟨tag, es, hcorr⟩ := correlate_eq_mk f s
  rw [exec_csRecv_of_respCode hcommand, received_eq hcorr, hcorr, handle_of_write hc]
  cases statusOf Config.wpe f.payload with
  | ack =>
    simp only [onWrite]
    rcases doSend_cases Config.wpe .recordingSettings Config.wpe.settingsReadPayload
        { s with expect := es, result := .none, events := [.logRx f tag] } with
      ⟨hlong, -⟩ | ⟨-, hw, hfull, h⟩ | ⟨-, hw, h⟩ | ⟨-, hw, hroom, h⟩
    · exact absurd hlong (Nat.not_lt_zero _)
    · have hrefused : s.writeAvail = false ∧ s.defer.length = 8 := ⟨hw, hfull⟩
      rw [h, if_pos hrefused]
      rfl
    · have hchannel : s.writeAvail = true := hw
      rw [h, if_neg (by simp [hchannel]), if_pos hchannel, if_pos hchannel]
      rfl
    · have hchannel : ¬ s.writeAvail = true := by simpa using hw
      rw [h, if_neg fun hrefused => hroom hrefused.2, if_neg hchannel, if_neg hchannel]
      rfl
  | refuse r => rfl
  | busy => rfl
  | unknown x => rfl
  | missing => rfl

end Sys2Proof.Machine
end

section
/-! SUPPORT. The security-locked refusal of a current-value response (spec/43_session.md R181, R205): the lock, which every
refusal sets, and the automatic passcode send, by what the host answers and what `do_send` decides. -/

namespace Sys2Proof.Machine

variable {P : Params} {id : DeviceId} {text : Text} {p : Bytes} {s u : State} {f : Frame} {tag : Tag}
  {es : List Expectation}

/-! ### Asking the host -/

/-- The host's answer depends on its tables alone (R9). -/
theorem askPasscode_congr (h : u.lookup = s.lookup) :
    askPasscode id u = ((askPasscode id s).1, { u with lookup := (askPasscode id s).2.lookup }) := by
  have hsame : (askPasscode id u).1 = (askPasscode id s).1 ∧
      (askPasscode id u).2.lookup = (askPasscode id s).2.lookup := by
    simp only [askPasscode, h]
    split
    · exact ⟨rfl, h⟩
    · exact ⟨rfl, h⟩
    · exact ⟨rfl, rfl⟩
  obtain ⟨hanswer, htables⟩ := hsame
  exact Prod.ext hanswer ((askPasscode_state id u).trans (by rw [htables]))

/-- Without tables the host knows no passcode. -/
theorem askPasscode_nil (h : s.lookup = []) : askPasscode id s = (none, s) := by
  simp only [askPasscode, h]

/-- A table is used up by one call where another follows (R9). -/
theorem askPasscode_cons {t v : PasscodeTable} {later : List PasscodeTable} (h : s.lookup = t :: v :: later) :
    askPasscode id s = (List.lookup id t, { s with lookup := v :: later }) := by
  simp only [askPasscode, h]

/-! ### The automatic send -/

theorem autoUnlock_of_no_passcode (hask : askPasscode id s = (none, u)) : autoUnlock P id s = u := by
  simp only [autoUnlock, hask]

theorem autoUnlock_of_malformed (hask : askPasscode id s = (some text, u)) (hp : passenc P text = none) :
    autoUnlock P id s = raise .validationPasscodeFormat u := by
  simp only [autoUnlock, hask, hp]

theorem autoUnlock_of_accepted {t : State} (hask : askPasscode id s = (some text, u)) (hp : passenc P text = some p)
    (hsend : doSend P .passcode p u = ⟨true, t⟩) : autoUnlock P id s = setAutoSpent true t := by
  simp only [autoUnlock, hask, hp, hsend, if_true]

theorem autoUnlock_of_refused {t : State} (hask : askPasscode id s = (some text, u)) (hp : passenc P text = some p)
    (hsend : doSend P .passcode p u = ⟨false, t⟩) : autoUnlock P id s = t := by
  simp only [autoUnlock, hask, hp, hsend, Bool.false_eq_true, if_false]

/-! ### The lock -/

/-- What every security refusal does: the link is marked locked, a live session is locked, the host is told (R181). -/
def lockSession (s : State) : State := emit .securityNeeded (setFsm s.fsm.onSecurityRefusal (setUnlocked false s))

/-- No automatic send is due where it is spent or no device is known (R181). -/
theorem onSecurityRefusal_of_not_due (h : s.autoSpent = true ∨ s.deviceId = none) :
    onSecurityRefusal P s = lockSession s := by
  cases hspent : s.autoSpent with
  | true => simp [onSecurityRefusal, hspent, lockSession]
  | false =>
    have hdevice : s.deviceId = none := h.resolve_left (by simp [hspent])
    simp [onSecurityRefusal, hspent, hdevice, lockSession]

theorem onSecurityRefusal_of_due (hspent : s.autoSpent = false) (hdevice : s.deviceId = some id) :
    onSecurityRefusal P s = autoUnlock P id (lockSession s) := by
  simp [onSecurityRefusal, hspent, hdevice, lockSession]

/-- The security-locked reason takes a current-value response to its handler (R181). -/
theorem exec_csRecv_of_reasonLocked {rest : Bytes} (hcommand : f.command = Config.wpe.respCode .currentValue)
    (hpayload : f.payload = Config.wpe.reasonLocked :: rest) (now : Time) (s : State) :
    exec (.csRecv f now) s = .next (onSecurityRefusal Config.wpe (received f s)) := by
  have hstatus : statusOf Config.wpe f.payload = .refuse Config.wpe.reasonLocked :=
    hpayload ▸ statusOf_reasonLocked Config.wpe_valid rest
  rw [exec_csRecv_of_respCode hcommand, hstatus]
  simp only [handle, onCurrentValue, if_true]

/-- A received frame's refusal locks the session and leaves all else as correlation did. -/
theorem lockSession_received (hcorr : correlate f s = (tag, { s with expect := es })) :
    lockSession (received f s) =
      { s with
        expect := es
        unlocked := false
        fsm := if s.fsm = .ready ∨ s.fsm = .polling ∨ s.fsm = .streaming then .securityLocked else s.fsm
        result := .none
        events := [.logRx f tag, .securityNeeded] } := by
  rw [received_eq hcorr, ← onSecurityRefusal_eq_ite]
  rfl

/-- Settles O38: correlation writes neither the bit nor the device, so no send is due. -/
theorem securityRefusalLocksSession : Obligations.SecurityRefusalLocksSession := by
  unfold Obligations.SecurityRefusalLocksSession
  intro f rest now s hcommand hpayload hnot
  obtain ⟨tag, es, hcorr⟩ := correlate_eq_mk f s
  have hnot' : (received f s).autoSpent = true ∨ (received f s).deviceId = none := by rwa [received_eq hcorr]
  rw [exec_csRecv_of_reasonLocked hcommand hpayload, onSecurityRefusal_of_not_due hnot', lockSession_received hcorr, hcorr]

/-- The refusal where a send is due, up to the host's answer (R181). -/
theorem exec_csRecv_of_due {rest : Bytes} (hcommand : f.command = Config.wpe.respCode .currentValue)
    (hpayload : f.payload = Config.wpe.reasonLocked :: rest) (hspent : s.autoSpent = false) (hdevice : s.deviceId = some id)
    (now : Time) : exec (.csRecv f now) s = .next (autoUnlock Config.wpe id (lockSession (received f s))) := by
  obtain ⟨tag, es, hcorr⟩ := correlate_eq_mk f s
  have hspent' : (received f s).autoSpent = false := by rwa [received_eq hcorr]
  have hdevice' : (received f s).deviceId = some id := by rwa [received_eq hcorr]
  rw [exec_csRecv_of_reasonLocked hcommand hpayload, onSecurityRefusal_of_due hspent' hdevice']

/-- The locked session's question to the host is the one the session before it would ask. -/
theorem askPasscode_lockSession (f : Frame) (s : State) :
    askPasscode id (lockSession (received f s)) =
      ((askPasscode id s).1, { lockSession (received f s) with lookup := (askPasscode id s).2.lookup }) := by
  obtain ⟨tag, es, hcorr⟩ := correlate_eq_mk f s
  exact askPasscode_congr (by rw [lockSession_received hcorr])

/-- Settles O39: the locked session sends as any other does, and the accepted send spends the bit. -/
theorem securityRefusalSendsKnownPasscode : Obligations.SecurityRefusalSendsKnownPasscode := by
  unfold Obligations.SecurityRefusalSendsKnownPasscode
  intro f rest now s id text p hcommand hpayload hspent hdevice hchannel hanswer hp
  obtain ⟨tag, es, hcorr⟩ := correlate_eq_mk f s
  have hask := askPasscode_lockSession (id := id) f s
  rw [lockSession_received hcorr, hanswer] at hask
  rw [exec_csRecv_of_due hcommand hpayload hspent hdevice, lockSession_received hcorr,
    autoUnlock_of_accepted hask hp (doSend_of_channel (passenc_fits hp) hchannel), hcorr]
  rfl

/-- Settles O40: by the host's answer, and for eight digits without a channel by the room in the queue. -/
theorem securityRefusalWithoutTransmission : Obligations.SecurityRefusalWithoutTransmission := by
  unfold Obligations.SecurityRefusalWithoutTransmission
  refine ⟨?refusal, fun id s h => askPasscode_nil h, fun id s t h => askPasscode_one h,
    fun id s t u later h => askPasscode_cons h⟩
  case refusal =>
    intro f rest now s id hcommand hpayload hspent hdevice
    obtain ⟨tag, es, hcorr⟩ := correlate_eq_mk f s
    have hask := askPasscode_lockSession (id := id) f s
    rw [lockSession_received hcorr] at hask
    rw [exec_csRecv_of_due hcommand hpayload hspent hdevice, lockSession_received hcorr, hcorr]
    refine ⟨?unknown, ?malformed, ?no_channel⟩
    case unknown =>
      intro hanswer
      rw [hanswer] at hask
      rw [autoUnlock_of_no_passcode hask]
    case malformed =>
      intro text hanswer hp
      rw [hanswer] at hask
      rw [autoUnlock_of_malformed hask hp]
      rfl
    case no_channel =>
      intro text p hanswer hp hchannel
      rw [hanswer] at hask
      by_cases hfull : s.defer.length = 8
      · rw [if_pos hfull, autoUnlock_of_refused hask hp (doSend_of_full (passenc_fits hp) hchannel hfull)]
        rfl
      · rw [if_neg hfull, autoUnlock_of_accepted hask hp (doSend_of_room (passenc_fits hp) hchannel hfull)]
        rfl

end Sys2Proof.Machine
end

section
/-! SUPPORT. The transition table of `fsm` (spec/43_session.md R209): how a received frame moves the state register, how every
operation does, and the ways out of SecurityLocked (R206). -/

namespace Sys2Proof.Machine

variable {P : Params} {s t : State} {f : Frame} {c : Command}

/-! ### The moves of a response -/

/-- How a response of a class with a status moves `fsm`: a security refusal of the current-value command and a passcode's Ack
do (R181, R186). -/
def Fsm.onResponse (P : Params) (c : Command) (st : Status) (x : Fsm) : Fsm :=
  if c = .currentValue ∧ st = .refuse P.reasonLocked then x.onSecurityRefusal
  else if c = .passcode ∧ st = .ack then x.onPasscodeAck
  else x

theorem doSend_fsm (P : Params) (c : Command) (p : Bytes) (s : State) : (doSend P c p s).state.fsm = s.fsm := by
  rcases doSend_cases P c p s with ⟨-, h⟩ | ⟨-, -, -, h⟩ | ⟨-, -, h⟩ | ⟨-, -, -, h⟩ <;> rw [h] <;> rfl

theorem askPasscode_fsm (id : DeviceId) (s : State) : (askPasscode id s).2.fsm = s.fsm := by
  rw [askPasscode_state]

theorem autoUnlock_fsm (P : Params) (id : DeviceId) (s : State) : (autoUnlock P id s).fsm = s.fsm := by
  rcases autoUnlock_cases P id s with ⟨-, h⟩ | ⟨-, -, -, h⟩ | ⟨-, p, -, -, h⟩ <;> rw [h]
  · exact askPasscode_fsm id s
  · exact askPasscode_fsm id s
  · have hsent := (doSend_fsm P .passcode p (askPasscode id s).2).trans (askPasscode_fsm id s)
    split <;> exact hsent

/-- The lock moves `fsm`, and the automatic send after it leaves it there (R181, R205). -/
theorem onSecurityRefusal_fsm (P : Params) (s : State) : (onSecurityRefusal P s).fsm = s.fsm.onSecurityRefusal := by
  by_cases hnot : s.autoSpent = true ∨ s.deviceId = none
  · rw [onSecurityRefusal_of_not_due hnot]
    rfl
  · obtain ⟨hspent, hdevice⟩ := not_or.mp hnot
    obtain ⟨id, hid⟩ := Option.ne_none_iff_exists'.mp hdevice
    rw [onSecurityRefusal_of_due (Bool.eq_false_iff.mpr hspent) hid, autoUnlock_fsm]
    rfl

theorem onCurrentValue_fsm (st : Status) (f : Frame) (now : Time) (s : State) :
    (onCurrentValue P st f now s).fsm = s.fsm.onResponse P .currentValue st := by
  cases st with
  | ack =>
    simp only [onCurrentValue, onCurrentAck]
    split <;> rfl
  | refuse r =>
    by_cases hr : r = P.reasonLocked
    · simp [onCurrentValue, Fsm.onResponse, hr, onSecurityRefusal_fsm]
    · simp [onCurrentValue, Fsm.onResponse, hr]
  | busy => rfl
  | unknown x => rfl
  | missing => rfl

theorem onRecordingSettings_fsm (st : Status) (f : Frame) (s : State) : (onRecordingSettings P st f s).fsm = s.fsm := by
  by_cases hack : st = .ack
  · simp only [hack, onRecordingSettings, onSettingsAck]
    split <;> rfl
  · rw [onRecordingSettings_of_ne_ack hack]
    rfl

theorem onPasscode_fsm (st : Status) (s : State) : (onPasscode st s).fsm = s.fsm.onResponse P .passcode st := by
  cases st <;> rfl

theorem onWrite_fsm (c : Command) (st : Status) (s : State) : (onWrite P c st s).fsm = s.fsm := by
  cases st with
  | ack => exact doSend_fsm ..
  | refuse r => rfl
  | busy => rfl
  | unknown x => rfl
  | missing => rfl

theorem handle_fsm (c : Command) (st : Status) (f : Frame) (now : Time) (s : State) :
    (handle P c st f now s).fsm = s.fsm.onResponse P c st := by
  cases c with
  | currentValue => exact onCurrentValue_fsm st f now s
  | recordingSettings => exact onRecordingSettings_fsm st f s
  | passcode => exact onPasscode_fsm st s
  | settingsWrite => exact onWrite_fsm _ st s
  | start => exact onWrite_fsm _ st s
  | stop => exact onWrite_fsm _ st s

/-! ### The moves of a frame -/

theorem isSecurityRefusal_iff : isSecurityRefusal f = true ↔
    f.command = Config.wpe.respCode .currentValue ∧ statusOf Config.wpe f.payload = .refuse Config.wpe.reasonLocked := by
  simp [isSecurityRefusal]

theorem isPasscodeAck_iff : isPasscodeAck f = true ↔
    f.command = Config.wpe.respCode .passcode ∧ statusOf Config.wpe f.payload = .ack := by
  simp [isPasscodeAck]

/-- The two columns of the table that a frame causes, in terms of the rules' moves: no status is a refusal and an Ack at once
(R90, R209). -/
theorem fsmOnFrame_eq_ite (f : Frame) (x : Fsm) :
    fsmOnFrame f x =
      if isSecurityRefusal f then x.onSecurityRefusal else if isPasscodeAck f then x.onPasscodeAck else x := by
  by_cases hrefuse : isSecurityRefusal f = true
  · have hack : ¬ isPasscodeAck f = true := by
      rw [isPasscodeAck_iff, (isSecurityRefusal_iff.mp hrefuse).2]
      simp
    cases x <;> simp [fsmOnFrame, hrefuse, hack, Fsm.onSecurityRefusal, Fsm.live]
  · cases x <;> simp [fsmOnFrame, hrefuse, Fsm.onPasscodeAck]

theorem respCode_inj {d : Command} : Config.wpe.respCode c = Config.wpe.respCode d ↔ c = d :=
  ⟨Config.wpe_valid.1 c d, congrArg _⟩

/-- A response moves `fsm` as the table says of its frame. -/
theorem onResponse_eq_fsmOnFrame (hcommand : Config.wpe.respCode c = f.command) (x : Fsm) :
    x.onResponse Config.wpe c (statusOf Config.wpe f.payload) = fsmOnFrame f x := by
  simp only [fsmOnFrame_eq_ite, isSecurityRefusal_iff, isPasscodeAck_iff, ← hcommand, respCode_inj, Fsm.onResponse]

/-- A frame of no class is neither of the two responses that move `fsm` (R190). -/
theorem fsmOnFrame_of_unknown (hunknown : ∀ c, Config.wpe.respCode c ≠ f.command) (x : Fsm) : fsmOnFrame f x = x := by
  have hrefuse : ¬ isSecurityRefusal f = true := fun h => hunknown _ (isSecurityRefusal_iff.mp h).1.symm
  have hack : ¬ isPasscodeAck f = true := fun h => hunknown _ (isPasscodeAck_iff.mp h).1.symm
  rw [fsmOnFrame_eq_ite, if_neg hrefuse, if_neg hack]

theorem receive_fsm (f : Frame) (now : Time) (s : State) : (receive Config.wpe f now s).fsm = fsmOnFrame f s.fsm := by
  have hlogged : (emit (.logRx f (correlate f s).1) (correlate f s).2).fsm = s.fsm := by
    rw [correlate_state]
    rfl
  rcases receive_cases Config.wpe f now s with ⟨hclass, h⟩ | ⟨c, hclass, h⟩ <;> rw [h]
  · rw [emit_fsm, hlogged, fsmOnFrame_of_unknown (classify_eq_none_iff.mp hclass)]
  · rw [handle_fsm, hlogged, onResponse_eq_fsmOnFrame (respCode_of_classify hclass)]

/-- The frames of a notification move `fsm` one after another (R160, R209). -/
theorem receiveAll_fsm (now : Time) (fs : List Frame) (s : State) :
    (receiveAll Config.wpe now fs s).fsm = fs.foldl (fun x f => fsmOnFrame f x) s.fsm := by
  induction fs generalizing s with
  | nil => rfl
  | cons f rest ih =>
    rw [List.foldl_cons, ← emit_fsm s (.arrival now), ← receive_fsm f now]
    exact ih _

/-! ### The moves of an operation -/

theorem AnswersOnly.fsm (h : AnswersOnly s t) : t.fsm = s.fsm := by
  obtain ⟨r, evs, rfl⟩ := h
  rfl

theorem csSend_fsm (P : Params) (c : BitVec 3) (p : Bytes) (s : State) : (csSendWith P c p s).fsm = s.fsm := by
  unfold csSendWith
  split
  · rfl
  · exact doSend_fsm ..

theorem csUnlock_fsm (P : Params) (text : Text) (s : State) : (csUnlockWith P text s).fsm = s.fsm := by
  unfold csUnlockWith
  split
  · rfl
  · exact doSend_fsm ..

theorem csConnect_fsm {id : DeviceId} {brk : Bool} (h : exec (.csConnect id brk) s = .next t) :
    t.fsm = fsmTable (.csConnect id brk) s.fsm := by
  rw [connectLatchesDevice.2] at h
  cases h
  cases s.fsm <;> simp [fsmTable]

theorem csChannel_fsm {w : Bool} (h : exec (.csChannel w) s = .next t) : t.fsm = fsmTable (.csChannel w) s.fsm := by
  rw [channelHandsOverAndFlushes.2] at h
  cases h
  cases w <;> cases s.fsm <;> simp [fsmTable]

theorem csPollstate_fsm {p : PState} (h : exec (.csPollstate p) s = .next t) :
    t.fsm = fsmTable (.csPollstate p) s.fsm := by
  rw [pollstateMovesLiveSession.2.2] at h
  cases h
  cases p <;> cases s.fsm <;> simp [fsmTable]

/-- The table, operation by operation. -/
theorem exec_fsm {i : Instr} (hnotify : ∀ chunk now, i ≠ .wpeNotify chunk now) (h : exec i s = .next t) :
    t.fsm = fsmTable i s.fsm := by
  cases i with
  | wpeReset => cases h; rfl
  | wpeNotify chunk now => exact absurd rfl (hnotify chunk now)
  | crcInit => cases h; rfl
  | crcUpdate b => cases h; rfl
  | crcRead => cases h; rfl
  | crcBlock data => cases h; rfl
  | fcEncode cmd seq p brk => cases h; exact (answersOnly_fcEncode ..).fsm
  | fcDecode data => cases h; rfl
  | faAppend chunk => cases h; rfl
  | faReset => cases h; rfl
  | csSend c p => cases h; exact csSend_fsm ..
  | csRecv f now => cases h; exact receive_fsm f now (begin s)
  | csConnect id brk => exact csConnect_fsm h
  | csChannel w => exact csChannel_fsm h
  | csPollstate p => exact csPollstate_fsm h
  | csDisconnect => cases h; rfl
  | csPassenc text => cases h; exact (answersOnly_csPassenc ..).fsm
  | csUnlock text => cases h; exact csUnlock_fsm ..
  | illegalOp op => cases h; rfl
  | frame cmd seq p crc => cases h; rfl
  | status p => cases h; rfl
  | passcode a b c d e f g k => cases h; exact (answersOnly_passcode ..).fsm
  | commandClass b => cases h; rfl

/-- WPE.NOTIFY answers the frames that move `fsm` (R160). -/
theorem exec_wpeNotify_fsm {chunk : Bytes} {now : Time} (h : exec (.wpeNotify chunk now) s = .next t) :
    t.fsm = (resultFrames t.result).foldl (fun x f => fsmOnFrame f x) s.fsm := by
  cases h
  exact receiveAll_fsm now (assemble Config.wpe chunk (begin s)).1 (assemble Config.wpe chunk (begin s)).2

/-- Settles O45: operation by operation, and for WPE.NOTIFY frame by frame. -/
theorem fsmFollowsTransitionTable : Obligations.FsmFollowsTransitionTable := by
  unfold Obligations.FsmFollowsTransitionTable
  exact ⟨fun i s t hnotify h => exec_fsm hnotify h, fun chunk now s t h => exec_wpeNotify_fsm h⟩

/-! ### The ways out of SecurityLocked -/

/-- The row SecurityLocked of the table has three entries that leave it (R206, R209). -/
theorem fsmTable_securityLocked {i : Instr} (h : fsmTable i .securityLocked ≠ .securityLocked) :
    i = .wpeReset ∨ i = .csDisconnect ∨ ∃ f now, i = .csRecv f now ∧ isPasscodeAck f = true := by
  cases i with
  | wpeReset => exact .inl rfl
  | csDisconnect => exact .inr (.inl rfl)
  | csRecv f now =>
    refine .inr (.inr ⟨f, now, rfl, ?_⟩)
    by_contra hack
    exact h (if_neg hack)
  | csChannel w => cases w <;> exact absurd rfl h
  | csPollstate p => cases p <;> exact absurd rfl h
  | _ => exact absurd rfl h

/-- Frames none of which acknowledges a passcode leave a session locked. -/
theorem foldl_fsmOnFrame_securityLocked {fs : List Frame} (h : ∀ f ∈ fs, isPasscodeAck f = false) :
    fs.foldl (fun x f => fsmOnFrame f x) .securityLocked = .securityLocked := by
  induction fs with
  | nil => rfl
  | cons f rest ih =>
    obtain ⟨hf, hrest⟩ := List.forall_mem_cons.mp h
    have hstays : fsmOnFrame f .securityLocked = .securityLocked := by simp [fsmOnFrame, hf]
    rw [List.foldl_cons, hstays, ih hrest]

/-- Settles O46: by the table's row SecurityLocked, and for WPE.NOTIFY by the frames it answers with. -/
theorem securityLockIsLeftOnlyByAcceptance : Obligations.SecurityLockIsLeftOnlyByAcceptance := by
  unfold Obligations.SecurityLockIsLeftOnlyByAcceptance
  intro i s t hlocked h hleft
  by_cases hnotify : ∃ chunk now, i = .wpeNotify chunk now
  · obtain ⟨chunk, now, rfl⟩ := hnotify
    refine .inr (.inr (.inr ⟨chunk, now, rfl, ?_⟩))
    by_contra hno
    have hnone : ∀ f ∈ resultFrames t.result, isPasscodeAck f = false := by simpa using hno
    rw [exec_wpeNotify_fsm h, hlocked, foldl_fsmOnFrame_securityLocked hnone] at hleft
    exact hleft rfl
  · have htable : t.fsm = fsmTable i s.fsm := exec_fsm (fun chunk now hi => hnotify ⟨chunk, now, hi⟩) h
    rw [htable, hlocked] at hleft
    obtain hreset | hdisconnect | hacknowledged := fsmTable_securityLocked hleft
    · exact .inl hreset
    · exact .inr (.inl hdisconnect)
    · exact .inr (.inr (.inl hacknowledged))

end Sys2Proof.Machine
end

section
/-! SUPPORT. The adaptive polling controller beside the block (spec/44_adjacent_components.md section 1, R233 to R236): the
counters a tick leaves, each answer to a tick and to a start as an equation under its own condition. -/

namespace Sys2Proof.Machine

variable {m : PollingMetrics}

/-! ### The counters -/

@[simp] theorem countTick_running : (countTick m).running = m.running := rfl

/-- A fast tick after a fast tick makes two (R233). -/
theorem two_le_fastTicks_countTick (hrate : 3 ≤ m.notifyCount - m.countAtTick) (hticks : 1 ≤ m.fastTicks) :
    2 ≤ (countTick m).fastTicks := by
  rw [countTick, if_pos hrate]
  exact Nat.succ_le_succ hticks

/-- A slow tick ends every row of fast ones (R233). -/
theorem not_two_le_fastTicks_countTick (hrate : m.notifyCount - m.countAtTick < 2) :
    ¬ 2 ≤ (countTick m).fastTicks := by
  rw [countTick, if_neg (Nat.not_le.mpr (hrate.trans (by decide)))]
  exact Nat.not_succ_le_zero 1

/-- A slow tick after a slow tick makes two (R233). -/
theorem two_le_slowTicks_countTick (hrate : m.notifyCount - m.countAtTick < 2) (hticks : 1 ≤ m.slowTicks) :
    2 ≤ (countTick m).slowTicks := by
  rw [countTick, if_pos hrate]
  exact Nat.succ_le_succ hticks

/-! ### A start -/

theorem startPolling_of_channel (hrun : m.running = false) (hchannel : m.channel = true) :
    startPolling m = ({ m with running := true, startPending := false }, [.startPolling]) := by
  simp [startPolling, hrun, hchannel]

theorem startPolling_of_no_channel (hrun : m.running = false) (hchannel : m.channel = false) :
    startPolling m = ({ m with startPending := true }, []) := by
  simp [startPolling, hrun, hchannel]

theorem startPolling_metrics (m : PollingMetrics) :
    ∃ running pending, (startPolling m).1 = { m with running := running, startPending := pending } := by
  unfold startPolling
  split_ifs <;> exact ⟨_, _, rfl⟩

/-! ### A tick -/

theorem pollTick_of_fast_running (hfast : 2 ≤ (countTick m).fastTicks) (hrun : m.running = true) :
    pollTick m =
      ({ countTick m with running := false, windowOpen := true }, [.stopPolling, .startTimer .window]) := by
  simp [pollTick, hfast, hrun]

theorem pollTick_of_fast_stopped (hfast : 2 ≤ (countTick m).fastTicks) (hrun : m.running = false) :
    pollTick m =
      if Config.pollingReopensWindow then ({ countTick m with windowOpen := true }, [.startTimer .window])
      else (countTick m, []) := by
  simp [pollTick, hfast, hrun]

theorem pollTick_of_not_fast (hfast : ¬ 2 ≤ (countTick m).fastTicks) :
    pollTick m =
      if 2 ≤ (countTick m).slowTicks ∧ m.windowOpen = false ∧ m.channel = true then startPolling (countTick m)
      else (countTick m, []) :=
  if_neg hfast

/-- What a tick decides is no part of what it counts (R233). -/
theorem pollTick_metrics (m : PollingMetrics) :
    ∃ running pending window,
      (pollTick m).1 = { countTick m with running := running, startPending := pending, windowOpen := window } := by
  by_cases hfast : 2 ≤ (countTick m).fastTicks
  · cases hrun : m.running with
    | true => exact ⟨_, _, _, congrArg Prod.fst (pollTick_of_fast_running hfast hrun)⟩
    | false =>
      rw [pollTick_of_fast_stopped hfast hrun]
      split <;> exact ⟨_, _, _, rfl⟩
  · rw [pollTick_of_not_fast hfast]
    split
    · obtain ⟨running, pending, hstart⟩ := startPolling_metrics (countTick m)
      exact ⟨running, pending, _, hstart⟩
    · exact ⟨_, _, _, rfl⟩

/-- Inside the streaming window no tick starts polling (R234): the one branch that starts it asks for a closed window. -/
theorem startPolling_not_mem_pollTick (hwindow : m.windowOpen = true) : .startPolling ∉ (pollTick m).2 := by
  by_cases hfast : 2 ≤ (countTick m).fastTicks
  · cases hrun : m.running with
    | true => simp [pollTick_of_fast_running hfast hrun]
    | false =>
      rw [pollTick_of_fast_stopped hfast hrun]
      split <;> simp
  · have hclosed : ¬ (2 ≤ (countTick m).slowTicks ∧ m.windowOpen = false ∧ m.channel = true) := by simp [hwindow]
    simp [pollTick_of_not_fast hfast, if_neg hclosed]

/-- Two slow ticks with no window open resume polling where a channel is there (R235). -/
theorem pollTick_of_slow (hrate : m.notifyCount - m.countAtTick < 2) (hticks : 1 ≤ m.slowTicks)
    (hwindow : m.windowOpen = false) :
    pollTick m = if m.channel then startPolling (countTick m) else (countTick m, []) := by
  simp [pollTick_of_not_fast (not_two_le_fastTicks_countTick hrate), two_le_slowTicks_countTick hrate hticks, hwindow]

/-! ### A start request and the channel -/

theorem pollStep_startRequest_of_not_both (h : ¬ (m.windowOpen = true ∧ m.channel = true)) :
    pollStep .startRequest m = startPolling m :=
  if_neg fun hboth => h ⟨hboth.1, hboth.2.1⟩

theorem pollStep_channel_of_pending (hpending : m.startPending = true) :
    pollStep (.channel true) m = startPolling { m with channel := true } := by
  simp [pollStep, hpending]

/-- A start that waited for the channel is honoured when it comes (R236). -/
theorem pollRun_startRequest_channel (hrun : m.running = false) (hchannel : m.channel = false) :
    pollRun [.startRequest, .channel true] m =
      ({ m with running := true, startPending := false, channel := true }, [.startPolling]) := by
  have hwaits : pollStep .startRequest m = ({ m with startPending := true }, []) := by
    rw [pollStep_startRequest_of_not_both (by simp [hchannel]), startPolling_of_no_channel hrun hchannel]
  have hcomes : pollStep (.channel true) { m with startPending := true } =
      ({ m with running := true, startPending := false, channel := true }, [.startPolling]) := by
    rw [pollStep_channel_of_pending rfl,
      startPolling_of_channel (m := { m with startPending := true, channel := true }) hrun rfl]
  simp [pollRun, hwaits, hcomes]

/-- Settles O59: clause by clause from the controller's answers to a tick and to a start. -/
theorem pollingControllerDecides : Obligations.PollingControllerDecides := by
  unfold Obligations.PollingControllerDecides
  intro m
  refine ⟨?counters, ?stops, ?resumes, startPolling_not_mem_pollTick, ?waits, ?starts⟩
  case counters =>
    obtain ⟨running, pending, window, hcounts⟩ := pollTick_metrics m
    rw [pollStep, hcounts]
    exact ⟨rfl, rfl, rfl, rfl⟩
  case stops =>
    intro hrate hticks hrun
    rw [pollStep, pollTick_of_fast_running (two_le_fastTicks_countTick hrate hticks) hrun]
    exact ⟨rfl, rfl, rfl⟩
  case resumes =>
    intro hrate hticks hrun hwindow
    rw [pollStep, pollTick_of_slow hrate hticks hwindow]
    cases hchannel : m.channel with
    | true =>
      rw [if_pos rfl, startPolling_of_channel (m := countTick m) hrun hchannel]
      exact ⟨rfl, rfl⟩
    | false => exact ⟨rfl, hrun⟩
  case waits =>
    intro hrun hchannel
    rw [pollRun_startRequest_channel hrun hchannel, pollStep_startRequest_of_not_both (by simp [hchannel]),
      startPolling_of_no_channel hrun hchannel]
    exact ⟨rfl, rfl, rfl, rfl⟩
  case starts =>
    intro hwindow hrun hchannel
    rw [pollStep_startRequest_of_not_both (by simp [hwindow]), startPolling_of_channel hrun hchannel]

end Sys2Proof.Machine
end

section
/-! SUPPORT. The packet parser beside the block (spec/44_adjacent_components.md R245 to R250): when the binary dialect accepts
a buffer, what the ASCII dialect reads around the sign, and the order in which the parser tries the two. -/

namespace Sys2Proof.Machine

variable {now : Time} {b : Bytes}

/-! ### The two dialects in order -/

theorem parsePacket_of_binary {v : Tenths} (hbinary : parseBinary b = some v) :
    parsePacket now b = some ⟨now, Config.parserChannel, celsiusOfTenths v, none⟩ := by
  simp [parsePacket, hbinary]

theorem parsePacket_of_ascii {channel : Option Int} {v : Tenths} {flag : Option SensorError}
    (hbinary : parseBinary b = none) (hascii : parseAscii b = some (channel, v, flag)) :
    parsePacket now b = some ⟨now, channel, celsiusOfTenths v, flag⟩ := by
  simp [parsePacket, hbinary, hascii]

theorem parsePacket_of_neither (hbinary : parseBinary b = none) (hascii : parseAscii b = none) :
    parsePacket now b = none := by
  simp [parsePacket, hbinary, hascii]

/-! ### The binary dialect -/

/-- A buffer of 11 bytes or more that holds the frame its length bytes declare is accepted (R246). -/
theorem parseBinary_of_accepted {sub lo hi p0 p1 : Byte} {rest : Bytes} (hsub : sub = 0x00 ∨ sub = 0x80)
    (hlong : 4 ≤ rest.length) (hdeclared : lo.toNat + 256 * hi.toNat ≤ rest.length) :
    parseBinary (0x01 :: Config.parserCommandCode :: sub :: lo :: hi :: p0 :: p1 :: rest) =
      some (tenthsOfInt ((be16 p1 p0).toInt - 1000)) := by
  refine if_pos ⟨?_, rfl, rfl, hsub, ?_⟩
  · simp only [List.length_cons]
    omega
  · simp only [List.length_cons, Config.hdrLen, Config.crcLen, le16]
    omega

/-- The binary dialect begins with the start marker (R246). -/
theorem parseBinary_of_no_marker (h : ∀ x rest, b = x :: rest → x ≠ 0x01) : parseBinary b = none := by
  unfold parseBinary
  split
  · exact if_neg fun haccepted => h _ _ rfl haccepted.2.1
  · rfl

/-! ### The ASCII dialect -/

theorem printable_cons_of_printable {x : Byte} (h : 0x20 ≤ x.toNat ∧ x.toNat ≤ 0x7E) :
    printable (x :: b) = Char.ofNat x.toNat :: printable b := by
  simp [printable, h]

theorem printable_append (a c : Bytes) : printable (a ++ c) = printable a ++ printable c := by
  simp [printable]

/-- A text of printable characters is what its bytes print (R248). -/
theorem printable_map_ofNat {t : Text} (h : ∀ c ∈ t, 0x20 ≤ c.toNat ∧ c.toNat ≤ 0x7E) :
    printable (t.map (fun c => BitVec.ofNat 8 c.toNat)) = t := by
  induction t with
  | nil => rfl
  | cons c rest ih =>
    obtain ⟨hc, hrest⟩ := List.forall_mem_cons.mp h
    have hbyte : (BitVec.ofNat 8 c.toNat).toNat = c.toNat := Nat.mod_eq_of_lt (by omega)
    rw [List.map_cons, printable_cons_of_printable (by rwa [hbyte]), ih hrest, hbyte, Char.ofNat_toNat]

/-- Fewer than 8 printable characters are no reading (R248). -/
theorem parseAscii_of_short (h : (b.filter (fun x => 0x20 ≤ x.toNat ∧ x.toNat ≤ 0x7E)).length < 8) :
    parseAscii b = none := by
  have hshort : (printable b).length < 8 := by simpa only [printable, List.length_map] using h
  simp only [parseAscii, if_pos hshort]

/-- What the ASCII dialect reads on either side of the first sign (R248, R249). -/
theorem parseAscii_of_sign {before after : Text} {sign : Char} (htext : printable b = before ++ sign :: after)
    (hbefore : ∀ c ∈ before, isSign c = false) (hsign : isSign sign = true)
    (hlong : 8 ≤ (before ++ sign :: after).length) (hdigits : 2 ≤ (magnitudeDigits after).length) :
    parseAscii b =
      some (if (idDigits before).isEmpty then none else some (decimal (idDigits before) : Int),
        ⟨sign == '-', decimal (magnitudeDigits after)⟩, textFlag (before ++ sign :: after)) := by
  have hdrop : (before ++ sign :: after).dropWhile (fun c => !isSign c) = sign :: after := by
    rw [List.dropWhile_append_of_pos (by simpa using hbefore)]
    simp [hsign]
  have htake : (before ++ sign :: after).takeWhile (fun c => !isSign c) = before := by
    rw [List.takeWhile_append_of_pos (by simpa using hbefore)]
    simp [hsign]
  simp only [parseAscii, htext, hdrop, htake, if_neg (Nat.not_lt.mpr hlong), if_neg (Nat.not_lt.mpr hdigits)]

/-! ### The document's ASCII examples -/

/-- "001+00243" between unprintable bytes is 24.3 on channel 1 (R250). -/
theorem parseAscii_example_reading :
    parseAscii ([0x00, 0xFF] ++ ['0', '0', '1', '+', '0', '0', '2', '4', '3'].map (fun c => BitVec.ofNat 8 c.toNat) ++
        [0x00]) =
      some (some 1, ⟨false, 243⟩, textFlag ['0', '0', '1', '+', '0', '0', '2', '4', '3']) := by
  have htext : printable ([0x00, 0xFF] ++
      ['0', '0', '1', '+', '0', '0', '2', '4', '3'].map (fun c => BitVec.ofNat 8 c.toNat) ++ [0x00]) =
      ['0', '0', '1'] ++ '+' :: ['0', '0', '2', '4', '3'] := by
    rw [printable_append, printable_append, printable_map_ofNat (by simp)]
    rfl
  exact parseAscii_of_sign htext (by simp [isSign]) rfl (by decide) (by decide)

/-- "099-00000B-OUT" is minus zero on channel 99 with its sensor disconnected (R250). -/
theorem parseAscii_example_disconnected :
    parseAscii (['0', '9', '9', '-', '0', '0', '0', '0', '0', 'B', '-', 'O', 'U', 'T'].map
        (fun c => BitVec.ofNat 8 c.toNat)) =
      some (some 99, ⟨true, 0⟩, some .sensorDisconnected) := by
  have htext : printable (['0', '9', '9', '-', '0', '0', '0', '0', '0', 'B', '-', 'O', 'U', 'T'].map
      (fun c => BitVec.ofNat 8 c.toNat)) =
      ['0', '9', '9'] ++ '-' :: ['0', '0', '0', '0', '0', 'B', '-', 'O', 'U', 'T'] :=
    printable_map_ofNat (by simp)
  exact parseAscii_of_sign htext (by simp [isSign]) rfl (by decide) (by decide)

/-- Settles O60: each clause by the dialect that reads the buffer. -/
theorem packetParserReadsDialects : Obligations.PacketParserReadsDialects := by
  unfold Obligations.PacketParserReadsDialects
  refine ⟨?binary, by decide, ?reading, ?disconnected, ?short⟩
  case binary =>
    intro now sub lo hi p0 p1 rest hsub hlong hdeclared
    exact parsePacket_of_binary (parseBinary_of_accepted hsub hlong hdeclared)
  case reading =>
    intro now
    exact ⟨_, parsePacket_of_ascii rfl parseAscii_example_reading, rfl, rfl⟩
  case disconnected =>
    intro now
    exact parsePacket_of_ascii rfl parseAscii_example_disconnected
  case short =>
    intro now b hmarker hfew
    exact parsePacket_of_neither (parseBinary_of_no_marker hmarker) (parseAscii_of_short hfew)

end Sys2Proof.Machine
end

section
/-! SUPPORT. EV_ERROR outside the handlers of a received frame (spec/60_exceptions.md R260, R268): an operation answers one
error and nothing else, or no error at all. -/

namespace Sys2Proof.Machine

variable {s t : State} {k : ErrorKind}

/-! ### One error or none -/

/-- The two ways an operation can end (R260): with one error raised as its first and last act, or without an error. -/
inductive RaisesAlone (s t : State) : Prop where
  | raised (k : ErrorKind) (hraised : t = raise k (begin s))
  | errorFree (hfree : ∀ k, .error k ∉ t.events)

theorem raisesAlone_raise (k : ErrorKind) (s : State) : RaisesAlone s (raise k (begin s)) := .raised k rfl

/-- An operation that emits nothing raises nothing. -/
theorem RaisesAlone.of_no_events (h : t.events = []) : RaisesAlone s t := .errorFree (by simp [h])

/-- Where an error is among the events, the operation ended with it. -/
theorem RaisesAlone.eq_of_error_mem (h : RaisesAlone s t) (hk : .error k ∈ t.events) :
    t = { s with result := .none, events := [.error k] } := by
  cases h with
  | raised e hraised =>
    subst hraised
    obtain rfl : k = e := by simpa using hk
    rfl
  | errorFree hfree => exact absurd hk (hfree k)

/-! ### Events that are no errors -/

theorem error_notMem_flushEvents (k : ErrorKind) (bs : List Bytes) : .error k ∉ flushEvents bs := by
  induction bs with
  | nil => exact List.not_mem_nil
  | cons b rest ih => simpa [flushEvents] using ih

theorem error_notMem_map_logCrcFail (k : ErrorKind) (fails : List Bytes) : .error k ∉ fails.map Event.logCrcFail := by
  simp

/-! ### The operations -/

/-- `do_send` tests before it writes, so a refused send has emitted nothing before its error (R132, R171, R173). -/
theorem raisesAlone_doSend (P : Params) (c : Command) (p : Bytes) (s : State) :
    RaisesAlone s (doSend P c p (begin s)).state := by
  rcases doSend_cases P c p (begin s) with ⟨-, h⟩ | ⟨-, -, -, h⟩ | ⟨-, -, h⟩ | ⟨-, -, -, h⟩ <;> rw [h]
  · exact raisesAlone_raise _ s
  · exact raisesAlone_raise _ s
  · exact .errorFree (by simp [sendTaken])
  · exact .of_no_events rfl

theorem raisesAlone_csSend (P : Params) (c : BitVec 3) (p : Bytes) (s : State) :
    RaisesAlone s (csSendWith P c p s) := by
  unfold csSendWith
  split
  · exact raisesAlone_raise _ s
  · exact raisesAlone_doSend P _ p s

theorem raisesAlone_csUnlock (P : Params) (text : Text) (s : State) : RaisesAlone s (csUnlockWith P text s) := by
  unfold csUnlockWith
  split
  · exact raisesAlone_raise _ s
  · exact raisesAlone_doSend P _ _ s

theorem raisesAlone_fcEncode (P : Params) (cmd seq : Byte) (p : Bytes) (brk : Bool) (s : State) :
    RaisesAlone s (fcEncodeWith P cmd seq p brk s) := by
  unfold fcEncodeWith
  split
  · exact raisesAlone_raise _ s
  · exact .of_no_events rfl

theorem raisesAlone_csPassenc (P : Params) (text : Text) (s : State) : RaisesAlone s (csPassencWith P text s) := by
  unfold csPassencWith
  split
  · exact raisesAlone_raise _ s
  · exact .of_no_events rfl

theorem raisesAlone_csConnect {id : DeviceId} {brk : Bool} (h : exec (.csConnect id brk) s = .next t) :
    RaisesAlone s t := by
  cases h
  split
  · exact .of_no_events rfl
  · exact raisesAlone_raise _ s

/-- A channel handed over emits the flushed frames and no error (R203). -/
theorem raisesAlone_csChannel {w : Bool} (h : exec (.csChannel w) s = .next t) : RaisesAlone s t := by
  cases h
  split
  case isTrue => exact raisesAlone_raise _ s
  case isFalse =>
    simp only [flush_eq]
    split
    · exact .errorFree fun k => error_notMem_flushEvents k s.defer
    · exact .of_no_events rfl

/-- A failed candidate is logged and raises nothing (R154). -/
theorem raisesAlone_faAppend (P : Params) (chunk : Bytes) (s : State) : RaisesAlone s (faAppendWith P chunk s) :=
  .errorFree fun k => error_notMem_map_logCrcFail k (appendChunk P.crcInit s.buf chunk).fails

/-- Every operation that receives no frame raises one error alone or none. -/
theorem exec_raisesAlone {i : Instr} (hrecv : ∀ f now, i ≠ .csRecv f now)
    (hnotify : ∀ chunk now, i ≠ .wpeNotify chunk now) (h : exec i s = .next t) : RaisesAlone s t := by
  cases i with
  | wpeReset => cases h; exact .of_no_events rfl
  | wpeNotify chunk now => exact absurd rfl (hnotify chunk now)
  | crcInit => cases h; exact .of_no_events rfl
  | crcUpdate b => cases h; exact .of_no_events rfl
  | crcRead => cases h; exact .of_no_events rfl
  | crcBlock data => cases h; exact .of_no_events rfl
  | fcEncode cmd seq p brk => cases h; exact raisesAlone_fcEncode ..
  | fcDecode data => cases h; exact .of_no_events rfl
  | faAppend chunk => cases h; exact raisesAlone_faAppend ..
  | faReset => cases h; exact .of_no_events rfl
  | csSend c p => cases h; exact raisesAlone_csSend ..
  | csRecv f now => exact absurd rfl (hrecv f now)
  | csConnect id brk => exact raisesAlone_csConnect h
  | csChannel w => exact raisesAlone_csChannel h
  | csPollstate p => cases h; exact .of_no_events rfl
  | csDisconnect => cases h; exact .of_no_events rfl
  | csPassenc text => cases h; exact raisesAlone_csPassenc ..
  | csUnlock text => cases h; exact raisesAlone_csUnlock ..
  | illegalOp op => cases h; exact raisesAlone_raise _ s
  | frame cmd seq p crc => cases h; exact .of_no_events rfl
  | status p => cases h; exact .of_no_events rfl
  | passcode a b c d e f g k => cases h; exact raisesAlone_csPassenc ..
  | commandClass b => cases h; exact .of_no_events rfl

/-- Settles O49: an operation that receives no frame ends with its one error or has none. -/
theorem raisedErrorLeavesState : Obligations.RaisedErrorLeavesState := by
  unfold Obligations.RaisedErrorLeavesState
  intro i s t k hrecv hnotify h hk
  exact (exec_raisesAlone hrecv hnotify h).eq_of_error_mem hk

end Sys2Proof.Machine
end

section
/-! SUPPORT. WPE.RESET and power-on (spec/70_reset_and_hazards.md R290): whatever the state was, the operation leaves the
reset state with the host's side of the port beside it. -/

namespace Sys2Proof.Machine

/-- The host's side of the port is all that a reset carries over from the state before it (R290, R293). -/
theorem exec_wpeReset (s : State) :
    exec .wpeReset s = .next { State.reset with port := s.port, lookup := s.lookup } := rfl

/-- Settles O33: each element is that of the reset state, and at power-on the host's side is at its reset value too. -/
theorem resetRestoresEveryElement : Obligations.ResetRestoresEveryElement := by
  unfold Obligations.ResetRestoresEveryElement
  refine ⟨?encoding, ?elements, ?powerOn⟩
  case encoding => rfl
  case elements =>
    intro s
    exact exec_wpeReset s
  case powerOn => exact exec_wpeReset State.reset

/-- Settles O53: the reset state has no connection, and all that belongs to one is cleared (R32, R290). -/
theorem resetMeetsInvariant : Obligations.ResetMeetsInvariant := by
  unfold Obligations.ResetMeetsInvariant
  exact inv_of_cleared (hfsm := rfl) (hbuf := rfl) (hexpect := rfl) (hdefer := rfl) (hchannel := rfl) (hbrk := rfl)
    (hdevice := rfl) (hunlocked := rfl)

end Sys2Proof.Machine
end
